-- ==== Sys2Proof/Word.lean ====
section
/-! DEFINITION. The machine word and the byte of the character streams (00_scope.md rules R8, R15, R61). -/

namespace Sys2Proof

/-- "A 16-bit unit of storage and addressing; the machine's only datatype" (rules R15, R18). -/
abbrev Word := BitVec 16

/-- One character of the input or the output stream (rules R10, R61). Inside the block there are no bytes. -/
abbrev Byte := BitVec 8

end Sys2Proof
end

