-- ==== Sys2Proof/Config.lean ====
section
/-! DEFINITION. The named parameters of 00_scope.md rule R9, each at the value the spec takes (log entry 1), and the
free values: what the environment answers beyond what State holds (log entry 4). -/

namespace Sys2Proof.Config

/-! Opcode numbers, bits 15:12 of an instruction (rules R9, R108; decisions D1, D2). -/

def OPC_BR : BitVec 4 := 0
def OPC_ADD : BitVec 4 := 1
def OPC_LD : BitVec 4 := 2
def OPC_ST : BitVec 4 := 3
def OPC_JSR : BitVec 4 := 4
def OPC_AND : BitVec 4 := 5
def OPC_LDR : BitVec 4 := 6
def OPC_STR : BitVec 4 := 7
def OPC_RES8 : BitVec 4 := 8
def OPC_NOT : BitVec 4 := 9
def OPC_LDI : BitVec 4 := 10
def OPC_STI : BitVec 4 := 11
def OPC_JMP : BitVec 4 := 12
def OPC_RES13 : BitVec 4 := 13
def OPC_LEA : BitVec 4 := 14
def OPC_TRAP : BitVec 4 := 15

/-! Field positions: the number of a field's lowest bit, or of a mode bit (rules R9, R93 to R103; decision D3). The opcode field's
position and every width are no parameters (rule R8). Each unfolds to its number in `simp`. -/

/-- DR, and SR of the stores: 11:9 (rule R93). -/
@[simp] def POS_DR_SR : Nat := 9

/-- SR1, SR of NOT, and BaseR: 8:6 (rule R93). -/
@[simp] def POS_SR1_BASER : Nat := 6

/-- SR2: 2:0 (rule R93). -/
@[simp] def POS_SR2 : Nat := 0

/-- The immediate-mode bit of ADD and AND: 5 (rules R94, R95). -/
@[simp] def POS_IMM_MODE : Nat := 5

/-- imm5: 4:0 (rule R95). -/
@[simp] def POS_IMM5 : Nat := 0

/-- The condition mask of BR: 11:9 (rule R97). -/
@[simp] def POS_BR_MASK : Nat := 9

/-- PCoffset9: 8:0 (rules R97, R101). -/
@[simp] def POS_PCOFFSET9 : Nat := 0

/-- The long-jump bit of JSR: 11 (rules R99, R100). -/
@[simp] def POS_LONG_MODE : Nat := 11

/-- PCoffset11: 10:0 (rule R99). -/
@[simp] def POS_PCOFFSET11 : Nat := 0

/-- offset6: 5:0 (rule R102). -/
@[simp] def POS_OFFSET6 : Nat := 0

/-- trapvect8: 7:0, the one position the source document gives itself (rule R103). -/
@[simp] def POS_TRAPVECT8 : Nat := 0

/-! The three values of COND (rules R9, R29; decision D4). -/

def FL_POS : Word := 0x0001
def FL_ZRO : Word := 0x0002
def FL_NEG : Word := 0x0004

/-- Value of PC at reset (rules R9, R301; decision D5). -/
def ENTRY : Word := 0x3000

/-- Address of the keyboard status word (rules R9, R35; decision D6). -/
def KBSR_ADDR : Word := 0xFE00

/-- Address of the keyboard data word (rules R9, R35; decision D6). -/
def KBDR_ADDR : Word := 0xFE02

/-! The six trap selectors (rules R9, R110, R232; decision D7). -/

def TV_GETC : BitVec 8 := 0x20
def TV_OUT : BitVec 8 := 0x21
def TV_PUTS : BitVec 8 := 0x22
def TV_IN : BitVec 8 := 0x23
def TV_PUTSP : BitVec 8 := 0x24
def TV_HALT : BitVec 8 := 0x25

/-- What the IN service writes before it reads: "Enter a character: ", 19 bytes (rules R9, R241; decision D13). -/
def IN_PROMPT : List Byte :=
  [0x45, 0x6E, 0x74, 0x65, 0x72, 0x20, 0x61, 0x20, 0x63, 0x68, 0x61, 0x72, 0x61, 0x63, 0x74, 0x65, 0x72, 0x3A, 0x20]

/-- What the HALT service writes: "HALT" and one newline byte, 5 bytes (rules R9, R247; decision D14). -/
def HALT_BANNER : List Byte := [0x48, 0x41, 0x4C, 0x54, 0x0A]

/-- What a blocking character read may do once the input stream has ended. The spec leaves the parameter OPEN and takes
one value (rules R9, R233; decision D15), the only one here. -/
inductive EofBehaviour where
  /-- The read never completes: the run is stuck. -/
  | neverCompletes
deriving DecidableEq, Repr

/-- The value taken (rules R9, R233; decision D15; log entry 6). -/
def EOF_BEHAVIOUR : EofBehaviour := .neverCompletes

/-- One answer of the environment to a request for the next byte of the input stream (rules R10, R60, R233). -/
inductive InputAnswer where
  /-- No byte can be had at this moment: a poll answers `none`, a blocking read goes on waiting. -/
  | noByte
  /-- The next byte of the stream, consumed by this answer. -/
  | byte (b : Byte)
  /-- The stream has ended: no byte remains and none will come. -/
  | ended
deriving DecidableEq, Repr, Inhabited

/-- FREE VALUE (log entry 4): the environment's answers once the ones written out in `State.input` are used up, numbered
by `State.draws`. It has no body: nothing can be proved of any of them (rules R60, R233; U9, U10). -/
opaque envAnswer : Nat → InputAnswer

/-- The model's own number (log entry 5): how many string words one step of the model lets PUTS or PUTSP read. A string that
has not ended by then goes on in the next step. At 65536 every address is read at most once in a step. -/
def STRING_BURST : Nat := 65536

end Sys2Proof.Config
end

