-- ==== Sys2Proof/Syntax.lean ====
section
/-! DEFINITION. Instructions: one constructor for each of the 25 rows of spec/opcode_table.json, in the table's order.
Bits the spec calls ignored (30_encoding.md rule R111) are no part of an instruction. -/

namespace Sys2Proof

/-- The eight general registers (10_state.md rule R22). -/
inductive Reg where
  | r0 | r1 | r2 | r3 | r4 | r5 | r6 | r7
deriving DecidableEq, Repr

/-- The instructions of rule R108, with the trap services of rule R110 as rows of their own (rule R117). Operand names are
the spec's: `dr` destination, `sr`, `sr1`, `sr2` sources, `base` base register. -/
inductive Instr where
  /-- ADD, register form (R151). -/
  | addReg (dr sr1 sr2 : Reg)
  /-- ADD, immediate form (R152). -/
  | addImm (dr sr1 : Reg) (imm5 : BitVec 5)
  /-- AND, register form (R155). -/
  | andReg (dr sr1 sr2 : Reg)
  /-- AND, immediate form (R156). -/
  | andImm (dr sr1 : Reg) (imm5 : BitVec 5)
  /-- NOT (R159). -/
  | not (dr sr : Reg)
  /-- BR, with the 3-bit condition mask n z p (R171). -/
  | br (mask : BitVec 3) (offset9 : BitVec 9)
  /-- JMP; RET is JMP R7 (R174, R175). -/
  | jmp (base : Reg)
  /-- JSR, long form (R177). -/
  | jsr (offset11 : BitVec 11)
  /-- JSR, register form (R178). -/
  | jsrr (base : Reg)
  /-- LD (R191). -/
  | ld (dr : Reg) (offset9 : BitVec 9)
  /-- LDI (R194). -/
  | ldi (dr : Reg) (offset9 : BitVec 9)
  /-- LDR (R197). -/
  | ldr (dr base : Reg) (offset6 : BitVec 6)
  /-- LEA (R200). -/
  | lea (dr : Reg) (offset9 : BitVec 9)
  /-- ST (R211). -/
  | st (sr : Reg) (offset9 : BitVec 9)
  /-- STI (R214). -/
  | sti (sr : Reg) (offset9 : BitVec 9)
  /-- STR (R217). -/
  | str (sr base : Reg) (offset6 : BitVec 6)
  /-- TRAP `TV_GETC` (R234). -/
  | getc
  /-- TRAP `TV_OUT` (R235). -/
  | out
  /-- TRAP `TV_PUTS` (R238). -/
  | puts
  /-- TRAP `TV_IN` (R241). -/
  | inp
  /-- TRAP `TV_PUTSP` (R244). -/
  | putsp
  /-- TRAP `TV_HALT` (R247). -/
  | halt
  /-- TRAP with any other selector (R230, R250). -/
  | trap (vect8 : BitVec 8)
  /-- The reserved opcode `OPC_RES8` (R260). -/
  | res8
  /-- The reserved opcode `OPC_RES13` (R261). -/
  | res13
deriving DecidableEq, Repr

end Sys2Proof
end

