-- ==== Sys2Proof/WellFormed.lean ====
section
/-! DEFINITION. Which instructions an encoding can give. Every field has its exact width as its type, so one check is left:
the row TRAP is the row of the selectors that no service has (30_encoding.md rules R110, R117). -/

namespace Sys2Proof

/-- The selector is none of the six of rule R110. -/
def unlistedSelector (v : BitVec 8) : Bool :=
  v != Config.TV_GETC && v != Config.TV_OUT && v != Config.TV_PUTS &&
    v != Config.TV_IN && v != Config.TV_PUTSP && v != Config.TV_HALT

/-- The instruction is the meaning of some word. -/
def Instr.wf : Instr → Bool
  | .addReg _ _ _ => true
  | .addImm _ _ _ => true
  | .andReg _ _ _ => true
  | .andImm _ _ _ => true
  | .not _ _ => true
  | .br _ _ => true
  | .jmp _ => true
  | .jsr _ => true
  | .jsrr _ => true
  | .ld _ _ => true
  | .ldi _ _ => true
  | .ldr _ _ _ => true
  | .lea _ _ => true
  | .st _ _ => true
  | .sti _ _ => true
  | .str _ _ _ => true
  | .getc => true
  | .out => true
  | .puts => true
  | .inp => true
  | .putsp => true
  | .halt => true
  | .trap v => unlistedSelector v
  | .res8 => true
  | .res13 => true

end Sys2Proof
end

