-- ==== Sys2Proof/Decode.lean ====
section
/-! DEFINITION. The decoder (30_encoding.md rules R90 to R112), total on every 16-bit word, and the encoder written from the
same tables (rule R115 for the bits the decoder ignores). -/

namespace Sys2Proof

/-! ## Fields: `extract(word, low_bit, width)` of rule R92, at the positions that are parameters of Config (R9) -/

/-- `instr[15:12]`: its position is no parameter (R8, R91). -/
def opcodeField (w : Word) : BitVec 4 := w.extractLsb' 12 4

/-- DR, or SR of a store (R93). -/
def drField (w : Word) : BitVec 3 := w.extractLsb' Config.POS_DR_SR 3

/-- SR1, SR of NOT, or BaseR (R93). -/
def sr1Field (w : Word) : BitVec 3 := w.extractLsb' Config.POS_SR1_BASER 3

/-- SR2 (R93). -/
def sr2Field (w : Word) : BitVec 3 := w.extractLsb' Config.POS_SR2 3

/-- The condition mask of BR (R97). -/
def maskField (w : Word) : BitVec 3 := w.extractLsb' Config.POS_BR_MASK 3

/-- The immediate-mode bit of ADD and AND (R94, R95). -/
def immediateBit (w : Word) : Bool := w.getLsbD Config.POS_IMM_MODE

/-- The long-jump bit of JSR (R99, R100). -/
def longBit (w : Word) : Bool := w.getLsbD Config.POS_LONG_MODE

/-- imm5 (R95). -/
def imm5Field (w : Word) : BitVec 5 := w.extractLsb' Config.POS_IMM5 5

/-- offset6 (R102). -/
def offset6Field (w : Word) : BitVec 6 := w.extractLsb' Config.POS_OFFSET6 6

/-- PCoffset9 (R97, R101). -/
def offset9Field (w : Word) : BitVec 9 := w.extractLsb' Config.POS_PCOFFSET9 9

/-- PCoffset11 (R99). -/
def offset11Field (w : Word) : BitVec 11 := w.extractLsb' Config.POS_PCOFFSET11 11

/-- trapvect8 (R103). -/
def vect8Field (w : Word) : BitVec 8 := w.extractLsb' Config.POS_TRAPVECT8 8

/-- The register a 3-bit index selects (R22, R93). -/
def regOfBits (b : BitVec 3) : Reg :=
  match b.toNat with
  | 0 => .r0
  | 1 => .r1
  | 2 => .r2
  | 3 => .r3
  | 4 => .r4
  | 5 => .r5
  | 6 => .r6
  | _ => .r7

/-- The 3-bit index of a register (R22). -/
def bitsOfReg : Reg → BitVec 3
  | .r0 => 0
  | .r1 => 1
  | .r2 => 2
  | .r3 => 3
  | .r4 => 4
  | .r5 => 5
  | .r6 => 6
  | .r7 => 7

/-! ## The decoder -/

/-- The sub-decode of TRAP (R110): the six services, and every other selector. -/
def decodeTrap (v : BitVec 8) : Instr :=
  if v = Config.TV_GETC then .getc
  else if v = Config.TV_OUT then .out
  else if v = Config.TV_PUTS then .puts
  else if v = Config.TV_IN then .inp
  else if v = Config.TV_PUTSP then .putsp
  else if v = Config.TV_HALT then .halt
  else .trap v

/-- The opcode map of rule R108. Sixteen opcode values, sixteen cases: the last one is `OPC_TRAP` (R109). -/
def decode (w : Word) : Instr :=
  if opcodeField w = Config.OPC_BR then .br (maskField w) (offset9Field w)
  else if opcodeField w = Config.OPC_ADD then
    if immediateBit w then .addImm (regOfBits (drField w)) (regOfBits (sr1Field w)) (imm5Field w)
    else .addReg (regOfBits (drField w)) (regOfBits (sr1Field w)) (regOfBits (sr2Field w))
  else if opcodeField w = Config.OPC_LD then .ld (regOfBits (drField w)) (offset9Field w)
  else if opcodeField w = Config.OPC_ST then .st (regOfBits (drField w)) (offset9Field w)
  else if opcodeField w = Config.OPC_JSR then
    if longBit w then .jsr (offset11Field w) else .jsrr (regOfBits (sr1Field w))
  else if opcodeField w = Config.OPC_AND then
    if immediateBit w then .andImm (regOfBits (drField w)) (regOfBits (sr1Field w)) (imm5Field w)
    else .andReg (regOfBits (drField w)) (regOfBits (sr1Field w)) (regOfBits (sr2Field w))
  else if opcodeField w = Config.OPC_LDR then
    .ldr (regOfBits (drField w)) (regOfBits (sr1Field w)) (offset6Field w)
  else if opcodeField w = Config.OPC_STR then
    .str (regOfBits (drField w)) (regOfBits (sr1Field w)) (offset6Field w)
  else if opcodeField w = Config.OPC_RES8 then .res8
  else if opcodeField w = Config.OPC_NOT then .not (regOfBits (drField w)) (regOfBits (sr1Field w))
  else if opcodeField w = Config.OPC_LDI then .ldi (regOfBits (drField w)) (offset9Field w)
  else if opcodeField w = Config.OPC_STI then .sti (regOfBits (drField w)) (offset9Field w)
  else if opcodeField w = Config.OPC_JMP then .jmp (regOfBits (sr1Field w))
  else if opcodeField w = Config.OPC_RES13 then .res13
  else if opcodeField w = Config.OPC_LEA then .lea (regOfBits (drField w)) (offset9Field w)
  else decodeTrap (vect8Field w)

/-- The decoder read off a row of spec/opcode_table.json: the low `nbits` bits of `w` are the instruction. Every word
decodes (R109), so the answer is never `none`. -/
def decodeTableWord (nbits w : Nat) : Option Instr :=
  some (decode (BitVec.ofNat 16 (w % 2 ^ nbits)))

/-! ## The encoder: the tables of rules R94 to R104, ignored bits as rule R115 writes them -/

/-- A field put at its low bit: what `extract(word, low_bit, width)` (R92) takes out again. -/
def place {n : Nat} (field : BitVec n) (lowBit : Nat) : Word := field.setWidth 16 <<< lowBit

/-- Format OPR (R94): opcode, DR, SR1, mode bit 0, bits 4:3 zero, SR2. -/
def encodeOpr (op : BitVec 4) (dr sr1 sr2 : Reg) : Word :=
  place op 12 ||| place (bitsOfReg dr) Config.POS_DR_SR ||| place (bitsOfReg sr1) Config.POS_SR1_BASER |||
    place (bitsOfReg sr2) Config.POS_SR2

/-- Format OPI (R95): opcode, DR, SR1, mode bit 1, imm5. -/
def encodeOpi (op : BitVec 4) (dr sr1 : Reg) (imm5 : BitVec 5) : Word :=
  place op 12 ||| place (bitsOfReg dr) Config.POS_DR_SR ||| place (bitsOfReg sr1) Config.POS_SR1_BASER |||
    place 0b1#1 Config.POS_IMM_MODE ||| place imm5 Config.POS_IMM5

/-- Format PCREL (R101): opcode, DR or SR, PCoffset9. -/
def encodePcRel (op : BitVec 4) (r : Reg) (offset9 : BitVec 9) : Word :=
  place op 12 ||| place (bitsOfReg r) Config.POS_DR_SR ||| place offset9 Config.POS_PCOFFSET9

/-- Format BASE (R102): opcode, DR or SR, BaseR, offset6. -/
def encodeBase (op : BitVec 4) (r base : Reg) (offset6 : BitVec 6) : Word :=
  place op 12 ||| place (bitsOfReg r) Config.POS_DR_SR ||| place (bitsOfReg base) Config.POS_SR1_BASER |||
    place offset6 Config.POS_OFFSET6

/-- Format TRAP (R103): opcode, bits 11:8 zero, trapvect8. -/
def encodeTrap (v : BitVec 8) : Word := place Config.OPC_TRAP 12 ||| place v Config.POS_TRAPVECT8

/-- The word of an instruction. -/
def encode : Instr → Word
  | .addReg dr sr1 sr2 => encodeOpr Config.OPC_ADD dr sr1 sr2
  | .addImm dr sr1 imm5 => encodeOpi Config.OPC_ADD dr sr1 imm5
  | .andReg dr sr1 sr2 => encodeOpr Config.OPC_AND dr sr1 sr2
  | .andImm dr sr1 imm5 => encodeOpi Config.OPC_AND dr sr1 imm5
  | .not dr sr =>
    place Config.OPC_NOT 12 ||| place (bitsOfReg dr) Config.POS_DR_SR ||| place (bitsOfReg sr) Config.POS_SR1_BASER |||
      place 0b111111#6 0
  | .br mask offset9 => place Config.OPC_BR 12 ||| place mask Config.POS_BR_MASK ||| place offset9 Config.POS_PCOFFSET9
  | .jmp base => place Config.OPC_JMP 12 ||| place (bitsOfReg base) Config.POS_SR1_BASER
  | .jsr offset11 => place Config.OPC_JSR 12 ||| place 0b1#1 Config.POS_LONG_MODE ||| place offset11 Config.POS_PCOFFSET11
  | .jsrr base => place Config.OPC_JSR 12 ||| place (bitsOfReg base) Config.POS_SR1_BASER
  | .ld dr offset9 => encodePcRel Config.OPC_LD dr offset9
  | .ldi dr offset9 => encodePcRel Config.OPC_LDI dr offset9
  | .ldr dr base offset6 => encodeBase Config.OPC_LDR dr base offset6
  | .lea dr offset9 => encodePcRel Config.OPC_LEA dr offset9
  | .st sr offset9 => encodePcRel Config.OPC_ST sr offset9
  | .sti sr offset9 => encodePcRel Config.OPC_STI sr offset9
  | .str sr base offset6 => encodeBase Config.OPC_STR sr base offset6
  | .getc => encodeTrap Config.TV_GETC
  | .out => encodeTrap Config.TV_OUT
  | .puts => encodeTrap Config.TV_PUTS
  | .inp => encodeTrap Config.TV_IN
  | .putsp => encodeTrap Config.TV_PUTSP
  | .halt => encodeTrap Config.TV_HALT
  | .trap v => encodeTrap v
  | .res8 => place Config.OPC_RES8 12
  | .res13 => place Config.OPC_RES13 12

end Sys2Proof
end

