-- ==== Sys2Proof/Machine/State.lean ====
section
/-! DEFINITION. The state of the machine (10_state.md), the reasons a step may stop, and the state after reset. -/

namespace Sys2Proof.Machine

/-- The eight general registers `x[0]` to `x[7]` (R22). -/
structure Regs where
  r0 : Word
  r1 : Word
  r2 : Word
  r3 : Word
  r4 : Word
  r5 : Word
  r6 : Word
  r7 : Word
deriving DecidableEq, Repr

/-- A listed word of memory and its address. The unit is the 16-bit word: "Inside the block there are no bytes" (R61; log
entry 3). -/
abbrev Cell := Nat × Word

/-- The memory of R50, sparse: the words that differ from what an unlisted address reads as, by rising address. -/
abbrev Memory := List Cell

/-- What an address that is not listed reads as: the reset content of every word (R40, R41). -/
def unlistedWord : Word := 0x0000

/-- A trap service that has begun and not ended: the instruction cycle it belongs to goes on in the next step (R141,
R275, R287; log entries 5 and 6). -/
inductive Service where
  /-- GETC waits in its blocking read (R234). -/
  | getc
  /-- IN has written its prompt and waits in its blocking read (R241). -/
  | inp
  /-- PUTS, about to read the word at `a` (R238). -/
  | puts (a : Word)
  /-- PUTSP, about to read the word at `a` (R244). -/
  | putsp (a : Word)
deriving DecidableEq, Repr

/-- All the state: the block's tuple of R20, the environment's two streams that a model carries beside it (R21), and the
two fields of the model's own (`draws`, `busy`). -/
structure State where
  /-- `x[0..7]` (R20, R22). -/
  regs : Regs
  /-- The program counter (R20, R25). -/
  pc : Word
  /-- The condition flag slot COND (R20, R29). -/
  cond : Word
  /-- `mem`, the two device words in it (R20, R35, R50). -/
  mem : Memory
  /-- The halt latch, the output HALTED (R20, R30). -/
  halted : Bool
  /-- The bytes written to the output stream, oldest first (R12, R21). -/
  output : List Byte
  /-- The environment's coming answers, next one first, as far as they are written out (R21, R60, R233; log entry 4). -/
  input : List Config.InputAnswer
  /-- How many free answers have been drawn after the written ones were used up (log entry 4). -/
  draws : Nat
  /-- The service whose instruction cycle has not ended, if any (log entries 5 and 6). -/
  busy : Option Service
deriving DecidableEq, Repr

/-- Why the machine takes no step. The spec has no fault state (R109, R270). -/
inductive Fault where
  /-- Raised by `step` alone, when the halt latch is set: "the block takes no step" (R139). Safe: nothing happens there. -/
  | halted
deriving DecidableEq, Repr

/-- Why an instruction has no meaning. -/
inductive Refusal where
  /-- Raised by an arm of `exec` whose instruction has no meaning yet; no arm does. Safe. -/
  | notModelled (mnemonic : String)
deriving DecidableEq, Repr

/-- The machine after RESET and before LOAD (R40, R300). The three last fields are the model's (log entries 4 and 5). -/
def State.reset : State where
  regs := ⟨0, 0, 0, 0, 0, 0, 0, 0⟩
  pc := Config.ENTRY
  cond := Config.FL_ZRO
  mem := []
  halted := false
  output := []
  input := []
  draws := 0
  busy := none

end Sys2Proof.Machine
end

