-- ==== Sys2Proof/Machine/Ops.lean ====
section
/-! DEFINITION. The named operations on the state: registers, memory, the two memory ports with the keyboard arbiter
(20_memory.md), the character streams, and what TRAP does on entry (45_trap.md). -/

namespace Sys2Proof.Machine

/-! ## Registers -/

/-- `x[i]` (R17, R22). -/
def Regs.get (g : Regs) : Reg → Word
  | .r0 => g.r0
  | .r1 => g.r1
  | .r2 => g.r2
  | .r3 => g.r3
  | .r4 => g.r4
  | .r5 => g.r5
  | .r6 => g.r6
  | .r7 => g.r7

/-- `x[i] <- v` on the register file (R17, R22): no register is hardwired. -/
def Regs.set (g : Regs) (i : Reg) (v : Word) : Regs :=
  match i with
  | .r0 => { g with r0 := v }
  | .r1 => { g with r1 := v }
  | .r2 => { g with r2 := v }
  | .r3 => { g with r3 := v }
  | .r4 => { g with r4 := v }
  | .r5 => { g with r5 := v }
  | .r6 => { g with r6 := v }
  | .r7 => { g with r7 := v }

/-- `x[i]` (R17). -/
def State.reg (s : State) (i : Reg) : Word := s.regs.get i

/-- `x[i] <- v` (R17). -/
def State.setReg (s : State) (i : Reg) (v : Word) : State := { s with regs := s.regs.set i v }

/-- `pc <- v` (R17). -/
def State.setPc (s : State) (v : Word) : State := { s with pc := v }

/-- `cond <- v` (R17). -/
def State.setCond (s : State) (v : Word) : State := { s with cond := v }

/-- `halted <- true` (R17, R30). -/
def State.setHalted (s : State) : State := { s with halted := true }

/-- Note which service, if any, has not ended (log entries 5 and 6). -/
def State.setBusy (s : State) (b : Option Service) : State := { s with busy := b }

/-! ## The memory array -/

/-- `mem[a]`, with no side effect (R17). Every address names a word (R50). -/
def readWord : Memory → Word → Word
  | [], _ => unlistedWord
  | (k, v) :: rest, a => if k = a.toNat then v else readWord rest a

/-- The list without the word at `k`. -/
def eraseCell (k : Nat) : Memory → Memory
  | [] => []
  | (k', v') :: rest => if k' = k then eraseCell k rest else (k', v') :: eraseCell k rest

/-- The list with `v` at `k`, kept in rising order. -/
def insertCell (k : Nat) (v : Word) : Memory → Memory
  | [] => [(k, v)]
  | (k', v') :: rest =>
    if k < k' then (k, v) :: (k', v') :: rest
    else if k' = k then (k, v) :: rest
    else (k', v') :: insertCell k v rest

/-- `mem[a] <- v` on the array, in canonical form (log entry 3). -/
def writeWord (m : Memory) (a v : Word) : Memory :=
  if v = unlistedWord then eraseCell a.toNat m else insertCell a.toNat v m

/-- The listed addresses rise strictly from at least `lo`, lie in 0..65535, and none is listed for nothing. -/
def wfFrom : Nat → Memory → Bool
  | _, [] => true
  | lo, (k, v) :: rest => decide (lo ≤ k) && decide (k < 65536) && (v != unlistedWord) && wfFrom (k + 1) rest

/-- The canonical form of memory: equal memories are equal lists (log entry 3). -/
def Memory.wf (m : Memory) : Bool := wfFrom 0 m

/-- `mem[a]` of a state, with no side effect (R17). -/
def State.word (s : State) (a : Word) : Word := readWord s.mem a

/-- `mem[a] <- v` of a state (R17). -/
def State.setWord (s : State) (a v : Word) : State := { s with mem := writeWord s.mem a v }

/-! ## The character streams -/

/-- `zext_8` (R16). -/
def zext8 (b : Byte) : Word := b.setWidth 16

/-- Bits 7:0 of a word (R61). -/
def lowByte (w : Word) : Byte := w.extractLsb' 0 8

/-- Bits 15:8 of a word (R61). -/
def highByte (w : Word) : Byte := w.extractLsb' 8 8

/-- The environment's next answer: the next one written out, else a free one (R60, R233; log entry 4). An ended stream stays
ended. -/
def State.draw (s : State) : Config.InputAnswer × State :=
  match s.input with
  | .ended :: _ => (.ended, s)
  | .noByte :: rest => (.noByte, { s with input := rest })
  | .byte b :: rest => (.byte b, { s with input := rest })
  | [] =>
    (Config.envAnswer s.draws,
      { s with draws := s.draws + 1, input := if Config.envAnswer s.draws = .ended then [.ended] else [] })

/-- `KbdPoll()` (R10, R60): some byte, now consumed, or none. -/
def State.kbdPoll (s : State) : Option Byte × State :=
  match s.draw with
  | (.byte b, s') => (some b, s')
  | (.noByte, s') => (none, s')
  | (.ended, s') => (none, s')

/-- `CharIn()` tried once (R10, R233): the byte, now consumed, or none while the read has to go on waiting. -/
def State.charIn (s : State) : Option Byte × State :=
  match s.draw with
  | (.byte b, s') => (some b, s')
  | (.noByte, s') => (none, s')
  | (.ended, s') =>
    match Config.EOF_BEHAVIOUR with
    | .neverCompletes => (none, s')

/-- `CharOut(b)` (R10, R12). -/
def State.charOut (s : State) (b : Byte) : State := { s with output := s.output ++ [b] }

/-- `CharOut` of each byte in order (R241, R247). -/
def State.charsOut (s : State) (bs : List Byte) : State := { s with output := s.output ++ bs }

/-! ## The two memory ports -/

/-- What a poll leaves in the device words (R52, R54, R55). -/
def latchPoll : Option Byte × State → State
  | (some b, s) => (s.setWord Config.KBSR_ADDR 0x8000).setWord Config.KBDR_ADDR (zext8 b)
  | (none, s) => s.setWord Config.KBSR_ADDR 0x0000

/-- `MemRead(a, 1)` (R52, R53): a read of the status word polls first. -/
def State.memRead (s : State) (a : Word) : Word × State :=
  if a = Config.KBSR_ADDR then
    ((latchPoll s.kbdPoll).word a, latchPoll s.kbdPoll)
  else
    (s.word a, s)

/-- `MemWrite(a, 1, v)` (R56): plain storage everywhere. -/
def State.memWrite (s : State) (a v : Word) : State := s.setWord a v

/-! ## Trap entry

The block has no exceptions (R270) and no interrupts (R273). TRAP is the only trap-like mechanism, and entry saves exactly
one thing, the PC in R7 (R276). There is no return from it: `pc` already points after the TRAP (R277). -/

/-- `x[7] <- pc`, first for every selector, and no other effect of TRAP itself (R230, R276). -/
def State.enterTrap (s : State) : State := s.setReg .r7 s.pc

end Sys2Proof.Machine
end

