-- ==== Sys2Proof/Machine/Boot.lean ====
section
/-! DEFINITION. Fetching (40_instruction_cycle.md rule R131), and what the host does to the block: RESET, LOAD, and supplying
input (70_reset_and_hazards.md rules R300 to R313). -/

namespace Sys2Proof.Machine

/-- The word the fetch reads, through the read port (R131). -/
def State.fetched (s : State) : Word := (s.memRead s.pc).1

/-- The state after the fetch: the read's side effect, then `pc <- pc + 1` modulo 2^16 (R131). -/
def State.afterFetch (s : State) : State := (s.memRead s.pc).2.setPc (s.pc + 1)

/-- RESET (R300). The input stream is the environment's and is not reset (R40). -/
def State.performReset (s : State) : State := { State.reset with input := s.input, draws := s.draws }

/-- A 16-bit word of an image, most significant byte first (R307). -/
def imageWord (hi lo : Byte) : Word := hi ++ lo

/-- The payload of an image from address `a` on: complete words only, none past address 0xFFFF (R308, R310). -/
def loadWords : Nat → List Byte → Memory → Memory
  | a, hi :: lo :: rest, m =>
    if a ≤ 0xFFFF then loadWords (a + 1) rest (writeWord m (BitVec.ofNat 16 a) (imageWord hi lo)) else m
  | _, _, m => m

/-- LOAD of one image (R308): it writes `mem` directly and polls nothing. -/
def State.load (s : State) (image : List Byte) : State :=
  match image with
  | hi :: lo :: rest => { s with mem := loadWords (imageWord hi lo).toNat rest s.mem }
  | _ => s

/-- LOAD of several images, in order: a later one overwrites an earlier one (R309). -/
def State.loadAll (s : State) (images : List (List Byte)) : State := images.foldl State.load s

/-- The environment's next answers become known (R10, R313). -/
def State.supply (s : State) (answers : List Config.InputAnswer) : State := { s with input := s.input ++ answers }

end Sys2Proof.Machine
end

