-- ==== Sys2Proof/Machine/Flags.lean ====
section
/-! DEFINITION. The condition flags: the flag-update rule (40_instruction_cycle.md rule R136) and the test of BR
(42_control.md rule R171). -/

namespace Sys2Proof.Machine

/-- The flag of a 16-bit value: NEGATIVE by bit 15, else ZERO, else POSITIVE (R136). -/
def flagOf (v : Word) : Word :=
  if v.getLsbD 15 then Config.FL_NEG
  else if v = 0 then Config.FL_ZRO
  else Config.FL_POS

/-- `SetCC(i)`: the flag of what register `i` holds now (R136, R138). -/
def State.setCC (s : State) (i : Reg) : State := s.setCond (flagOf (s.reg i))

/-- `(instr[11:9] & cond[2:0]) != 0` (R171). -/
def branchTaken (mask : BitVec 3) (cond : Word) : Bool := (mask &&& cond.extractLsb' 0 3) != 0

/-- `x[i] <- v` and then `SetCC(i)`: how every flag-writing operation ends (R32, R138). -/
def State.setRegCC (s : State) (i : Reg) (v : Word) : State := (s.setReg i v).setCC i

end Sys2Proof.Machine
end

