-- ==== Sys2Proof/Machine/Operands.lean ====
section
/-! DEFINITION. Operand forms (30_encoding.md rules R105, R107; 43_load.md rule R203). All sums are modulo 2^16. -/

namespace Sys2Proof.Machine

/-- `sext_5` (R16, R105). -/
def sext5 (v : BitVec 5) : Word := v.signExtend 16

/-- `sext_6` (R16, R105). -/
def sext6 (v : BitVec 6) : Word := v.signExtend 16

/-- `sext_9` (R16, R105). -/
def sext9 (v : BitVec 9) : Word := v.signExtend 16

/-- `sext_11` (R16, R105). -/
def sext11 (v : BitVec 11) : Word := v.signExtend 16

/-- `pc + sext_9(PCoffset9)`, with the incremented PC (R107, R131). -/
def State.pcRel9 (s : State) (off : BitVec 9) : Word := s.pc + sext9 off

/-- `pc + sext_11(PCoffset11)`, with the incremented PC (R107, R131). -/
def State.pcRel11 (s : State) (off : BitVec 11) : Word := s.pc + sext11 off

/-- `x[BaseR] + sext_6(offset6)` (R107). -/
def State.baseOff (s : State) (base : Reg) (off : BitVec 6) : Word := s.reg base + sext6 off

end Sys2Proof.Machine
end

