-- ==== Sys2Proof/Machine/Control.lean ====
section
/-! DEFINITION. BR, JMP (RET), JSR and JSRR (42_control.md). No delay slot, no flag, no memory (R170). -/

namespace Sys2Proof.Machine

/-- BR (R171). -/
def execBr (mask : BitVec 3) (offset9 : BitVec 9) (s : State) : Host.Outcome State Fault Refusal :=
  .next (if branchTaken mask s.cond then s.setPc (s.pcRel9 offset9) else s)

/-- JMP, and RET when the base is R7 (R174, R175). -/
def execJmp (base : Reg) (s : State) : Host.Outcome State Fault Refusal :=
  .next (s.setPc (s.reg base))

/-- JSR, long form (R177). -/
def execJsr (offset11 : BitVec 11) (s : State) : Host.Outcome State Fault Refusal :=
  .next ((s.setReg .r7 s.pc).setPc (s.pcRel11 offset11))

/-- JSR, register form: R7 is written before the base register is read (R178, R179). -/
def execJsrr (base : Reg) (s : State) : Host.Outcome State Fault Refusal :=
  .next ((s.setReg .r7 s.pc).setPc ((s.setReg .r7 s.pc).reg base))

end Sys2Proof.Machine
end

