-- ==== Sys2Proof/Machine/Load.lean ====
section
/-! DEFINITION. LD, LDI, LDR and LEA (43_load.md). Every read goes through the read port (R57, R190). -/

namespace Sys2Proof.Machine

/-- `x[dr] <- MemRead(ea, 1)`, then `SetCC(dr)`: how LD, LDI and LDR end (R191, R194, R197). -/
def State.loadFrom (s : State) (dr : Reg) (ea : Word) : State :=
  (s.memRead ea).2.setRegCC dr (s.memRead ea).1

/-- LD (R191). -/
def execLd (dr : Reg) (offset9 : BitVec 9) (s : State) : Host.Outcome State Fault Refusal :=
  .next (s.loadFrom dr (s.pcRel9 offset9))

/-- LDI: the pointer read, then the data read, in this order (R65, R194). -/
def execLdi (dr : Reg) (offset9 : BitVec 9) (s : State) : Host.Outcome State Fault Refusal :=
  .next ((s.memRead (s.pcRel9 offset9)).2.loadFrom dr (s.memRead (s.pcRel9 offset9)).1)

/-- LDR (R197). -/
def execLdr (dr base : Reg) (offset6 : BitVec 6) (s : State) : Host.Outcome State Fault Refusal :=
  .next (s.loadFrom dr (s.baseOff base offset6))

/-- LEA: no memory access; it does write the flags (R200). -/
def execLea (dr : Reg) (offset9 : BitVec 9) (s : State) : Host.Outcome State Fault Refusal :=
  .next (s.setRegCC dr (s.pcRel9 offset9))

end Sys2Proof.Machine
end

