-- ==== Sys2Proof/Machine/Operate.lean ====
section
/-! DEFINITION. ADD, AND and NOT (41_operate.md). Every meaning runs after the fetch, so `pc` is the incremented PC. -/

namespace Sys2Proof.Machine

/-- ADD, register form (R151). -/
def execAddReg (dr sr1 sr2 : Reg) (s : State) : Host.Outcome State Fault Refusal :=
  .next (s.setRegCC dr (s.reg sr1 + s.reg sr2))

/-- ADD, immediate form (R152). -/
def execAddImm (dr sr1 : Reg) (imm5 : BitVec 5) (s : State) : Host.Outcome State Fault Refusal :=
  .next (s.setRegCC dr (s.reg sr1 + sext5 imm5))

/-- AND, register form (R155). -/
def execAndReg (dr sr1 sr2 : Reg) (s : State) : Host.Outcome State Fault Refusal :=
  .next (s.setRegCC dr (s.reg sr1 &&& s.reg sr2))

/-- AND, immediate form: the immediate is sign-extended (R156). -/
def execAndImm (dr sr1 : Reg) (imm5 : BitVec 5) (s : State) : Host.Outcome State Fault Refusal :=
  .next (s.setRegCC dr (s.reg sr1 &&& sext5 imm5))

/-- NOT (R159). -/
def execNot (dr sr : Reg) (s : State) : Host.Outcome State Fault Refusal :=
  .next (s.setRegCC dr (~~~(s.reg sr)))

end Sys2Proof.Machine
end

