-- ==== Sys2Proof/Machine/Reserved.lean ====
section
/-! DEFINITION. The two reserved opcodes: silent no-operations (46_reserved.md). -/

namespace Sys2Proof.Machine

/-- RES8 (R260). -/
def execRes8 (s : State) : Host.Outcome State Fault Refusal := .next s

/-- RES13 (R261). -/
def execRes13 (s : State) : Host.Outcome State Fault Refusal := .next s

end Sys2Proof.Machine
end

