-- ==== Sys2Proof/Machine/Store.lean ====
section
/-! DEFINITION. ST, STI and STR (44_store.md): the whole word of a register through the write port, no flags (R210). -/

namespace Sys2Proof.Machine

/-- ST (R211). -/
def execSt (sr : Reg) (offset9 : BitVec 9) (s : State) : Host.Outcome State Fault Refusal :=
  .next (s.memWrite (s.pcRel9 offset9) (s.reg sr))

/-- STI: the pointer read goes through the read port (R57, R214). -/
def execSti (sr : Reg) (offset9 : BitVec 9) (s : State) : Host.Outcome State Fault Refusal :=
  .next ((s.memRead (s.pcRel9 offset9)).2.memWrite (s.memRead (s.pcRel9 offset9)).1 (s.reg sr))

/-- STR (R217). -/
def execStr (sr base : Reg) (offset6 : BitVec 6) (s : State) : Host.Outcome State Fault Refusal :=
  .next (s.memWrite (s.baseOff base offset6) (s.reg sr))

end Sys2Proof.Machine
end

