-- ==== Sys2Proof/Machine/Trap.lean ====
section
/-! DEFINITION. TRAP and the six services (45_trap.md). A service runs inside the instruction cycle (R130, R231). One that
cannot end in this step leaves itself in `busy`, and `resume` goes on with it in the next (log entries 5 and 6). -/

namespace Sys2Proof.Machine

/-! ## Character input -/

/-- GETC from its read on (R234). While no byte comes nothing but the wait is noted (R275). -/
def State.getcRead (s : State) : State :=
  match s.charIn with
  | (some c, s') => (s'.setRegCC .r0 (zext8 c)).setBusy none
  | (none, s') => s'.setBusy (some .getc)

/-- IN from its read on: the byte is echoed, then stored (R241). -/
def State.inRead (s : State) : State :=
  match s.charIn with
  | (some c, s') => ((s'.charOut c).setRegCC .r0 (zext8 c)).setBusy none
  | (none, s') => s'.setBusy (some .inp)

/-! ## String output -/

/-- What PUTS writes for a word that is not zero: its low byte (R238, R239). -/
def putsBytes (w : Word) : List Byte := [lowByte w]

/-- What PUTSP writes for a word that is not zero: its low byte, then its high byte unless that is zero (R244). -/
def putspBytes (w : Word) : List Byte := if highByte w = 0 then [lowByte w] else [lowByte w, highByte w]

/-- The loop of PUTS and PUTSP (R238, R244) from the word at `a`, for at most the given number of words: `bytes` is what the
service writes for a word that is not zero, and `inProgress` names the service if the string has not ended by then. -/
def stringLoop (bytes : Word → List Byte) (inProgress : Word → Service) : Nat → Word → State → State
  | 0, a, s => s.setBusy (some (inProgress a))
  | n + 1, a, s =>
    if (s.memRead a).1 = 0 then (s.memRead a).2.setBusy none
    else stringLoop bytes inProgress n (a + 1) ((s.memRead a).2.charsOut (bytes (s.memRead a).1))

/-- PUTS from the word at `a` on, as far as one step goes (R238; log entry 5). -/
def State.putsFrom (s : State) (a : Word) : State := stringLoop putsBytes .puts Config.STRING_BURST a s

/-- PUTSP from the word at `a` on, as far as one step goes (R244; log entry 5). -/
def State.putspFrom (s : State) (a : Word) : State := stringLoop putspBytes .putsp Config.STRING_BURST a s

/-! ## The instructions, each after `x[7] <- pc` (R230) -/

/-- GETC (R234). -/
def execGetc (s : State) : Host.Outcome State Fault Refusal := .next s.enterTrap.getcRead

/-- OUT (R235). -/
def execOut (s : State) : Host.Outcome State Fault Refusal := .next (s.enterTrap.charOut (lowByte (s.enterTrap.reg .r0)))

/-- PUTS (R238). -/
def execPuts (s : State) : Host.Outcome State Fault Refusal :=
  .next (s.enterTrap.putsFrom (s.enterTrap.reg .r0))

/-- IN: the prompt is written before the read waits (R241). -/
def execIn (s : State) : Host.Outcome State Fault Refusal :=
  .next (s.enterTrap.charsOut Config.IN_PROMPT).inRead

/-- PUTSP (R244). -/
def execPutsp (s : State) : Host.Outcome State Fault Refusal :=
  .next (s.enterTrap.putspFrom (s.enterTrap.reg .r0))

/-- HALT (R247). -/
def execHalt (s : State) : Host.Outcome State Fault Refusal :=
  .next (s.enterTrap.charsOut Config.HALT_BANNER).setHalted

/-- TRAP with a selector that no service has: `x[7] <- pc` and nothing else, whatever the selector (R250). -/
def execTrap (_vect8 : BitVec 8) (s : State) : Host.Outcome State Fault Refusal := .next s.enterTrap

/-! ## A service that goes on in the next step -/

/-- One more step of the instruction cycle that `service` has not ended (R141, R275). -/
def resume (service : Service) (s : State) : State :=
  match service with
  | .getc => s.getcRead
  | .inp => s.inRead
  | .puts a => s.putsFrom a
  | .putsp a => s.putspFrom a

end Sys2Proof.Machine
end

