-- ==== Sys2Proof/Machine/Dispatch.lean ====
section
/-! DEFINITION. The dispatch engine (40_instruction_cycle.md rules R133, R134): one operation for each instruction. -/

namespace Sys2Proof.Machine

def exec (i : Instr) (s : State) : Host.Outcome State Fault Refusal :=
  match i with
  | .addReg dr sr1 sr2 => Sys2Proof.Machine.execAddReg dr sr1 sr2 s
  | .addImm dr sr1 imm5 => Sys2Proof.Machine.execAddImm dr sr1 imm5 s
  | .andReg dr sr1 sr2 => Sys2Proof.Machine.execAndReg dr sr1 sr2 s
  | .andImm dr sr1 imm5 => Sys2Proof.Machine.execAndImm dr sr1 imm5 s
  | .not dr sr => Sys2Proof.Machine.execNot dr sr s
  | .br mask offset9 => Sys2Proof.Machine.execBr mask offset9 s
  | .jmp base => Sys2Proof.Machine.execJmp base s
  | .jsr offset11 => Sys2Proof.Machine.execJsr offset11 s
  | .jsrr base => Sys2Proof.Machine.execJsrr base s
  | .ld dr offset9 => Sys2Proof.Machine.execLd dr offset9 s
  | .ldi dr offset9 => Sys2Proof.Machine.execLdi dr offset9 s
  | .ldr dr base offset6 => Sys2Proof.Machine.execLdr dr base offset6 s
  | .lea dr offset9 => Sys2Proof.Machine.execLea dr offset9 s
  | .st sr offset9 => Sys2Proof.Machine.execSt sr offset9 s
  | .sti sr offset9 => Sys2Proof.Machine.execSti sr offset9 s
  | .str sr base offset6 => Sys2Proof.Machine.execStr sr base offset6 s
  | .getc => Sys2Proof.Machine.execGetc s
  | .out => Sys2Proof.Machine.execOut s
  | .puts => Sys2Proof.Machine.execPuts s
  | .inp => Sys2Proof.Machine.execIn s
  | .putsp => Sys2Proof.Machine.execPutsp s
  | .halt => Sys2Proof.Machine.execHalt s
  | .trap vect8 => Sys2Proof.Machine.execTrap vect8 s
  | .res8 => Sys2Proof.Machine.execRes8 s
  | .res13 => Sys2Proof.Machine.execRes13 s

end Sys2Proof.Machine
end

