-- ==== Sys2Proof/Machine/Step.lean ====
section
/-! DEFINITION. One step (40_instruction_cycle.md rule R134): fetch, decode, dispatch; or one more step of a service that has not
ended. -/

namespace Sys2Proof.Machine

/-- A halted block takes no step (R139). An unfinished instruction cycle goes on. Else a cycle starts (R131 to R134). -/
def step (s : State) : Host.Outcome State Fault Refusal :=
  if s.halted then .fault .halted
  else
    match s.busy with
    | some service => .next (resume service s)
    | none => exec (decode s.fetched) s.afterFetch

/-- Where `withFetchWord` puts the word: at `pc`, but at `ENTRY` if `pc` is the status word's address, where a fetch reads what
the poll leaves and no stored word (R58; log entry 10). -/
def fetchSlot (s : State) : Word := if s.pc = Config.KBSR_ADDR then Config.ENTRY else s.pc

/-- The state in which the very next step fetches and runs the instruction whose bits are `w` (log entry 10). -/
def State.withFetchWord (s : State) (nbits w : Nat) : State :=
  { s with
    pc := fetchSlot s
    mem := writeWord s.mem (fetchSlot s) (BitVec.ofNat 16 (w % 2 ^ nbits))
    halted := false
    busy := none }

end Sys2Proof.Machine
end

