-- ==== Sys2Proof/Safety.lean ====
section
/-! DEFINITION. The terms claims are stated in: the invariant of the machine, which instruction a step works on and what it may
write, and what an instruction leaves alone. Written from the prose of the rules, not from the meanings. -/

namespace Sys2Proof.Machine

/-! ## The invariant -/

/-- COND holds exactly one of its three values (R31). -/
def legalCond (c : Word) : Prop := c = Config.FL_POS ∨ c = Config.FL_ZRO ∨ c = Config.FL_NEG

/-- What holds of every state a run reaches: memory is in canonical form (the model's own, log entry 3), COND is legal (R31), and
a halted block has no service in progress (the model's own field, log entries 5 to 7). -/
structure State.Inv (s : State) : Prop where
  mem_wf : Memory.wf s.mem = true
  cond_legal : legalCond s.cond
  halted_idle : s.halted = true → s.busy = none

/-- A state is safe when the machine takes a step there, or has ended its run by HALT (R139, R141: nothing else stops it). -/
def State.Safe (s : State) : Prop := s.halted = true ∨ ∃ t, step s = .next t

/-! ## Flags -/

/-- `c` is the flag of the value `v`: the table of R137. -/
def FlagDescribes (c v : Word) : Prop :=
  (v.toNat = 0 → c = Config.FL_ZRO) ∧
  (1 ≤ v.toNat → v.toNat ≤ 0x7FFF → c = Config.FL_POS) ∧
  (0x8000 ≤ v.toNat → c = Config.FL_NEG)

/-! ## What an instruction leaves alone -/

/-- Every register but `dst` reads as before. -/
def RegsKeptBut (dst : Reg) (s t : State) : Prop := ∀ r, r ≠ dst → t.reg r = s.reg r

/-- Every register reads as before. -/
def RegsKept (s t : State) : Prop := ∀ r, t.reg r = s.reg r

/-- Every word of memory reads as before. -/
def MemoryKept (s t : State) : Prop := ∀ a, t.word a = s.word a

/-- Nothing is taken from the environment. -/
def InputKept (s t : State) : Prop := t.input = s.input ∧ t.draws = s.draws

/-- No stream, no memory word, no latch and no service is touched: what all but the memory and trap instructions keep. -/
structure OutsideKept (s t : State) : Prop where
  memory : MemoryKept s t
  input : InputKept s t
  output : t.output = s.output
  halted : t.halted = s.halted
  busy : t.busy = s.busy

/-- What one read of address `a` through the read port may change, and how: the two device words when `a` is the status
word, and the input stream by one answer; nothing else (R52, R53). -/
structure ReadPortEffect (a : Word) (s t : State) : Prop where
  memory : ∀ b, (a = Config.KBSR_ADDR → b ≠ Config.KBSR_ADDR ∧ b ≠ Config.KBDR_ADDR) → t.word b = s.word b
  devices : a = Config.KBSR_ADDR → ∀ b, t.word b = (s.memRead a).2.word b
  input : t.input = (if a = Config.KBSR_ADDR then s.draw.2.input else s.input)
  draws : t.draws = (if a = Config.KBSR_ADDR then s.draw.2.draws else s.draws)
  output : t.output = s.output
  halted : t.halted = s.halted
  busy : t.busy = s.busy

/-! ## Whole-machine tables of the prose -/

/-- The instruction whose cycle the next step works on: the one fetched, or the service that has not ended. -/
def State.current (s : State) : Instr :=
  match s.busy with
  | none => decode s.fetched
  | some .getc => .getc
  | some .inp => .inp
  | some (.puts _) => .puts
  | some (.putsp _) => .putsp

/-- The flag-writing set and each member's destination register (R32, R138). -/
def flagDest : Instr → Option Reg
  | .addReg dr _ _ => some dr
  | .addImm dr _ _ => some dr
  | .andReg dr _ _ => some dr
  | .andImm dr _ _ => some dr
  | .not dr _ => some dr
  | .br _ _ => none
  | .jmp _ => none
  | .jsr _ => none
  | .jsrr _ => none
  | .ld dr _ => some dr
  | .ldi dr _ => some dr
  | .ldr dr _ _ => some dr
  | .lea dr _ => some dr
  | .st _ _ => none
  | .sti _ _ => none
  | .str _ _ _ => none
  | .getc => some .r0
  | .out => none
  | .puts => none
  | .inp => some .r0
  | .putsp => none
  | .halt => none
  | .trap _ => none
  | .res8 => none
  | .res13 => none

/-- The instruction saves the incremented PC in R7: JSR, JSRR and every TRAP (R23). -/
def savesPc : Instr → Bool
  | .addReg _ _ _ => false
  | .addImm _ _ _ => false
  | .andReg _ _ _ => false
  | .andImm _ _ _ => false
  | .not _ _ => false
  | .br _ _ => false
  | .jmp _ => false
  | .jsr _ => true
  | .jsrr _ => true
  | .ld _ _ => false
  | .ldi _ _ => false
  | .ldr _ _ _ => false
  | .lea _ _ => false
  | .st _ _ => false
  | .sti _ _ => false
  | .str _ _ _ => false
  | .getc => true
  | .out => true
  | .puts => true
  | .inp => true
  | .putsp => true
  | .halt => true
  | .trap _ => true
  | .res8 => false
  | .res13 => false

/-- Where a store stores, computed in the state after the fetch: `pc + sext_9` (ST), the word read there (STI), base plus
offset (STR). Nothing else stores (R23, R210 to R217). -/
def storeAddress (i : Instr) (s : State) : Option Word :=
  match i with
  | .st _ off => some (s.pcRel9 off)
  | .sti _ off => some (s.memRead (s.pcRel9 off)).1
  | .str _ base off => some (s.baseOff base off)
  | .addReg _ _ _ => none
  | .addImm _ _ _ => none
  | .andReg _ _ _ => none
  | .andImm _ _ _ => none
  | .not _ _ => none
  | .br _ _ => none
  | .jmp _ => none
  | .jsr _ => none
  | .jsrr _ => none
  | .ld _ _ => none
  | .ldi _ _ => none
  | .ldr _ _ _ => none
  | .lea _ _ => none
  | .getc => none
  | .out => none
  | .puts => none
  | .inp => none
  | .putsp => none
  | .halt => none
  | .trap _ => none
  | .res8 => none
  | .res13 => none

/-- How an instruction leaves PC, given the state `s` after the fetch, whose `pc` is the incremented one (R26). -/
def nextPc (i : Instr) (s : State) : Word :=
  match i with
  | .br mask off => if mask &&& s.cond.extractLsb' 0 3 = 0 then s.pc else s.pc + off.signExtend 16
  | .jmp base => s.reg base
  | .jsr off => s.pc + off.signExtend 16
  | .jsrr base => if base = .r7 then s.pc else s.reg base
  | .addReg _ _ _ => s.pc
  | .addImm _ _ _ => s.pc
  | .andReg _ _ _ => s.pc
  | .andImm _ _ _ => s.pc
  | .not _ _ => s.pc
  | .ld _ _ => s.pc
  | .ldi _ _ => s.pc
  | .ldr _ _ _ => s.pc
  | .lea _ _ => s.pc
  | .st _ _ => s.pc
  | .sti _ _ => s.pc
  | .str _ _ _ => s.pc
  | .getc => s.pc
  | .out => s.pc
  | .puts => s.pc
  | .inp => s.pc
  | .putsp => s.pc
  | .halt => s.pc
  | .trap _ => s.pc
  | .res8 => s.pc
  | .res13 => s.pc

/-! ## Strings -/

/-- The string loop of R238 and R244 as a relation: from the word at `a` in `s` it reads exactly `n` words, the last of them
zero, writes `bytes w` for each other word `w`, and leaves `t`. -/
inductive StringRun (bytes : Word → List Byte) : Nat → Word → State → State → Prop where
  /-- The terminator is read, and nothing after it. -/
  | stop (a : Word) (s s' : State) : s.memRead a = (0, s') → StringRun bytes 1 a s s'
  /-- A word that is not zero is written out, and the loop goes on at the next address, modulo 2^16. -/
  | go (n : Nat) (a w : Word) (s s' t : State) : s.memRead a = (w, s') → w ≠ 0 →
      StringRun bytes n (a + 1) (s'.charsOut (bytes w)) t → StringRun bytes (n + 1) a s t

/-- `n` words of the loop of R238 and R244 and no more, as a relation: from the word at `a` in `s` it reads `n` words, none of
them zero, writes `bytes w` for each, and leaves `t`. The next word to be read is the one at `a + n`, modulo 2^16. -/
inductive StringPart (bytes : Word → List Byte) : Nat → Word → State → State → Prop where
  /-- No word is read. -/
  | nothing (a : Word) (s : State) : StringPart bytes 0 a s s
  /-- A word that is not zero is written out, and the loop goes on at the next address. -/
  | word (n : Nat) (a w : Word) (s s' t : State) : s.memRead a = (w, s') → w ≠ 0 →
      StringPart bytes n (a + 1) (s'.charsOut (bytes w)) t → StringPart bytes (n + 1) a s t

/-- What PUTS writes for a word: its low byte (R238). -/
def oneCharacter (w : Word) : List Byte := [BitVec.ofNat 8 (w.toNat % 256)]

/-- What PUTSP writes for a word: the low byte, then the high byte if it is not zero (R244). -/
def upToTwoCharacters (w : Word) : List Byte :=
  if w.toNat / 256 = 0 then [BitVec.ofNat 8 (w.toNat % 256)]
  else [BitVec.ofNat 8 (w.toNat % 256), BitVec.ofNat 8 (w.toNat / 256)]

/-- The words `ws` and then a zero word stand in memory from address `a` on, modulo 2^16, no address of them the status
word's, and none of `ws` is zero. -/
structure PlainString (s : State) (a : Word) (ws : List Word) : Prop where
  letters : ∀ (k : Nat) (h : k < ws.length), s.word (a + BitVec.ofNat 16 k) = ws[k] ∧ ws[k] ≠ 0
  terminator : s.word (a + BitVec.ofNat 16 ws.length) = 0
  noPoll : ∀ k ≤ ws.length, a + BitVec.ofNat 16 k ≠ Config.KBSR_ADDR

/-! ## Images -/

/-- The address of the first payload word of an image: its first two bytes, most significant first (R306, R307). -/
def imageOrigin (image : List Byte) : Nat := (image.getD 0 0).toNat * 256 + (image.getD 1 0).toNat

/-- The word an image gives for the address `a`, if it covers it: the payload word number `a - origin`, complete (R306 to
R310). -/
def imageAt (image : List Byte) (a : Word) : Option Word :=
  if imageOrigin image ≤ a.toNat ∧ 2 + 2 * (a.toNat - imageOrigin image) + 1 < image.length then
    some (BitVec.ofNat 16
      ((image.getD (2 + 2 * (a.toNat - imageOrigin image)) 0).toNat * 256 +
        (image.getD (3 + 2 * (a.toNat - imageOrigin image)) 0).toNat))
  else none

end Sys2Proof.Machine
end

