-- ==== Sys2Proof/Certificates/Slice0/Obligations.lean ====
section
/-! DEFINITION. The statements for the provers. Numbers of the encoding and of the address map are the parameters of Config,
the spec's own decisions (log entry 1). A statement about `exec` starts after the fetch, where `pc` is the incremented PC
(R131). -/

open Sys2Proof Sys2Proof.Machine

/-! ## Encoding -/

/-- The decoder drops no bit of an encoding: it gives every well-formed instruction back (30_encoding.md sections 2 and 4). -/
def Obligations.DecodeOfEncodeIsTheInstruction : Prop :=
  ∀ i : Instr, i.wf = true → decode (encode i) = i

/-- The decoder is total (R109): every word is a well-formed instruction, and writing that instruction with the ignored bits
of R115 (log entry 2) is another word of the same instruction (R111). -/
def Obligations.EveryWordIsAnInstructionAndItsCanonicalWordAgrees : Prop :=
  ∀ w : Word, (decode w).wf = true ∧ decode (encode (decode w)) = decode w

/-- The decoder follows spec/opcode_table.json row by row: each match value under its mask gives the row's instruction, with
its operands from the row's bit positions (R93 to R104, R108, R110, R117; the spec's decisions D1 to D4, D7). -/
def Obligations.DecodeFollowsTheOpcodeTable : Prop :=
  ∀ w : Word,
    (w &&& 0xF020 = 0x1000 → decode w =
      .addReg (regOfBits (w.extractLsb' 9 3)) (regOfBits (w.extractLsb' 6 3)) (regOfBits (w.extractLsb' 0 3))) ∧
    (w &&& 0xF020 = 0x1020 → decode w =
      .addImm (regOfBits (w.extractLsb' 9 3)) (regOfBits (w.extractLsb' 6 3)) (w.extractLsb' 0 5)) ∧
    (w &&& 0xF020 = 0x5000 → decode w =
      .andReg (regOfBits (w.extractLsb' 9 3)) (regOfBits (w.extractLsb' 6 3)) (regOfBits (w.extractLsb' 0 3))) ∧
    (w &&& 0xF020 = 0x5020 → decode w =
      .andImm (regOfBits (w.extractLsb' 9 3)) (regOfBits (w.extractLsb' 6 3)) (w.extractLsb' 0 5)) ∧
    (w &&& 0xF000 = 0x9000 → decode w = .not (regOfBits (w.extractLsb' 9 3)) (regOfBits (w.extractLsb' 6 3))) ∧
    (w &&& 0xF000 = 0x0000 → decode w = .br (w.extractLsb' 9 3) (w.extractLsb' 0 9)) ∧
    (w &&& 0xF000 = 0xC000 → decode w = .jmp (regOfBits (w.extractLsb' 6 3))) ∧
    (w &&& 0xF800 = 0x4800 → decode w = .jsr (w.extractLsb' 0 11)) ∧
    (w &&& 0xF800 = 0x4000 → decode w = .jsrr (regOfBits (w.extractLsb' 6 3))) ∧
    (w &&& 0xF000 = 0x2000 → decode w = .ld (regOfBits (w.extractLsb' 9 3)) (w.extractLsb' 0 9)) ∧
    (w &&& 0xF000 = 0xA000 → decode w = .ldi (regOfBits (w.extractLsb' 9 3)) (w.extractLsb' 0 9)) ∧
    (w &&& 0xF000 = 0x6000 → decode w =
      .ldr (regOfBits (w.extractLsb' 9 3)) (regOfBits (w.extractLsb' 6 3)) (w.extractLsb' 0 6)) ∧
    (w &&& 0xF000 = 0xE000 → decode w = .lea (regOfBits (w.extractLsb' 9 3)) (w.extractLsb' 0 9)) ∧
    (w &&& 0xF000 = 0x3000 → decode w = .st (regOfBits (w.extractLsb' 9 3)) (w.extractLsb' 0 9)) ∧
    (w &&& 0xF000 = 0xB000 → decode w = .sti (regOfBits (w.extractLsb' 9 3)) (w.extractLsb' 0 9)) ∧
    (w &&& 0xF000 = 0x7000 → decode w =
      .str (regOfBits (w.extractLsb' 9 3)) (regOfBits (w.extractLsb' 6 3)) (w.extractLsb' 0 6)) ∧
    (w &&& 0xF0FF = 0xF020 → decode w = .getc) ∧
    (w &&& 0xF0FF = 0xF021 → decode w = .out) ∧
    (w &&& 0xF0FF = 0xF022 → decode w = .puts) ∧
    (w &&& 0xF0FF = 0xF023 → decode w = .inp) ∧
    (w &&& 0xF0FF = 0xF024 → decode w = .putsp) ∧
    (w &&& 0xF0FF = 0xF025 → decode w = .halt) ∧
    (w &&& 0xF000 = 0xF000 → (w.toNat % 256 < 0x20 ∨ 0x25 < w.toNat % 256) → decode w = .trap (w.extractLsb' 0 8)) ∧
    (w &&& 0xF000 = 0x8000 → decode w = .res8) ∧
    (w &&& 0xF000 = 0xD000 → decode w = .res13)

/-- A few words written out bit by bit from the tables of 30_encoding.md decode to what they stand for. -/
def Obligations.WrittenOutWordsDecode : Prop :=
  decode 0b0001_010_001_1_11101#16 = .addImm .r2 .r1 0b11101 ∧
  decode 0b0101_010_000_0_00_001#16 = .andReg .r2 .r0 .r1 ∧
  decode 0b0000_001_111111101#16 = .br 0b001 0b111111101 ∧
  decode 0b0100_0_00_111_000000#16 = .jsrr .r7 ∧
  decode 0b0110_010_011_111111#16 = .ldr .r2 .r3 0b111111 ∧
  decode 0b1011_000_000000011#16 = .sti .r0 0b000000011 ∧
  decode 0b1111_1111_00100001#16 = .out ∧
  decode 0b1101_000100100011#16 = .res13

/-- Sign extension is exact on the widths 5, 6, 9 and 11: taking the low bits back gives the field (R106). -/
def Obligations.SignExtensionGivesTheFieldBack : Prop :=
  ∀ v : Word,
    (sext5 (v.extractLsb' 0 5)).extractLsb' 0 5 = v.extractLsb' 0 5 ∧
    (sext6 (v.extractLsb' 0 6)).extractLsb' 0 6 = v.extractLsb' 0 6 ∧
    (sext9 (v.extractLsb' 0 9)).extractLsb' 0 9 = v.extractLsb' 0 9 ∧
    (sext11 (v.extractLsb' 0 11)).extractLsb' 0 11 = v.extractLsb' 0 11

/-- `sext_N` is the number minus 2^N when bit N-1 is set and the number itself when it is not, modulo 2^16 (R16, R105). -/
def Obligations.SignExtensionIsTheSignedReading : Prop :=
  (∀ v : BitVec 5, (sext5 v).toNat = if v.toNat < 16 then v.toNat else v.toNat + (65536 - 32)) ∧
  (∀ v : BitVec 6, (sext6 v).toNat = if v.toNat < 32 then v.toNat else v.toNat + (65536 - 64)) ∧
  (∀ v : BitVec 9, (sext9 v).toNat = if v.toNat < 256 then v.toNat else v.toNat + (65536 - 512)) ∧
  (∀ v : BitVec 11, (sext11 v).toNat = if v.toNat < 1024 then v.toNat else v.toNat + (65536 - 2048))

/-! ## Registers, flags, memory, streams -/

/-- A register reads what was written to it last, R0 among them, and no write to one is seen in another (R22). -/
def Obligations.RegistersAreEightIndependentCells : Prop :=
  ∀ (s : State) (i j : Reg) (v : Word),
    (s.setReg i v).reg i = v ∧ (i ≠ j → (s.setReg i v).reg j = s.reg j)

/-- `SetCC(i)` sets COND by what register `i` holds: NEGATIVE if bit 15 is set, else ZERO if it is zero, else POSITIVE, and
changes nothing else (R136). -/
def Obligations.SetCCFollowsTheRegister : Prop :=
  ∀ (s : State) (i : Reg),
    ((s.reg i).getLsbD 15 = true → (s.setCC i).cond = Config.FL_NEG) ∧
    ((s.reg i).getLsbD 15 = false → s.reg i = 0 → (s.setCC i).cond = Config.FL_ZRO) ∧
    ((s.reg i).getLsbD 15 = false → s.reg i ≠ 0 → (s.setCC i).cond = Config.FL_POS) ∧
    RegsKept s (s.setCC i) ∧ (s.setCC i).pc = s.pc ∧ OutsideKept s (s.setCC i)

/-- `MemRead`: a read of the status word polls; if a byte came the status word becomes 0x8000 and the data word the byte
zero-extended, else the status word becomes 0 and the data word is left unchanged; every other read is a pure lookup
(R52, R55). -/
def Obligations.ReadPortPollsAtTheStatusWord : Prop :=
  ∀ s : State,
    (∀ (b : Byte) (s' : State), s.kbdPoll = (some b, s') →
      ∃ t, s.memRead Config.KBSR_ADDR = (0x8000, t) ∧ t.word Config.KBSR_ADDR = 0x8000 ∧
        (t.word Config.KBDR_ADDR).toNat = b.toNat ∧
        (∀ a, a ≠ Config.KBSR_ADDR → a ≠ Config.KBDR_ADDR → t.word a = s.word a) ∧
        RegsKept s t ∧ t.pc = s.pc ∧ t.cond = s.cond ∧ t.output = s.output ∧ t.halted = s.halted ∧
        t.busy = s.busy ∧ InputKept s' t) ∧
    (∀ s' : State, s.kbdPoll = (none, s') →
      ∃ t, s.memRead Config.KBSR_ADDR = (0x0000, t) ∧ t.word Config.KBSR_ADDR = 0x0000 ∧
        (∀ a, a ≠ Config.KBSR_ADDR → t.word a = s.word a) ∧
        RegsKept s t ∧ t.pc = s.pc ∧ t.cond = s.cond ∧ t.output = s.output ∧ t.halted = s.halted ∧
        t.busy = s.busy ∧ InputKept s' t) ∧
    (∀ a, a ≠ Config.KBSR_ADDR → s.memRead a = (s.word a, s))

/-- `MemWrite(a, 1, v)` changes exactly the word at `a`, for every `a`, the device words among them, and has no side effect
(R56). -/
def Obligations.WritePortIsPlainStorage : Prop :=
  ∀ (s : State) (a v : Word),
    (s.memWrite a v).word a = v ∧ (∀ b, b ≠ a → (s.memWrite a v).word b = s.word b) ∧
    RegsKept s (s.memWrite a v) ∧ (s.memWrite a v).pc = s.pc ∧ (s.memWrite a v).cond = s.cond ∧
    (s.memWrite a v).output = s.output ∧ (s.memWrite a v).halted = s.halted ∧
    (s.memWrite a v).busy = s.busy ∧ InputKept s (s.memWrite a v)

/-- A value stored to the status word is never read back: the next read of it gives 0x8000 or 0x0000 (R58, a consequence the
spec marks as derived). -/
def Obligations.StoredStatusWordIsNeverReadBack : Prop :=
  ∀ (s : State) (v : Word),
    ((s.memWrite Config.KBSR_ADDR v).memRead Config.KBSR_ADDR).1 = 0x8000 ∨
    ((s.memWrite Config.KBSR_ADDR v).memRead Config.KBSR_ADDR).1 = 0x0000

/-- Memories in canonical form that read alike at every address are equal data (the model's form, log entry 3). -/
def Obligations.MemoriesThatReadAlikeAreEqual : Prop :=
  ∀ m m' : Memory, Memory.wf m = true → Memory.wf m' = true → (∀ a, readWord m a = readWord m' a) → m = m'

/-- Polls and blocking reads draw on one stream: the next byte goes to whichever asks first and is then gone for both; no
byte, or an ended stream, gives neither of them one (00_scope.md section 5, 20_memory.md section 2, 45_trap.md section 2). -/
def Obligations.PollsAndBlockingReadsShareOneStream : Prop :=
  ∀ (s : State) (rest : List Config.InputAnswer),
    (∀ b, s.input = .byte b :: rest →
      s.kbdPoll = (some b, { s with input := rest }) ∧ s.charIn = (some b, { s with input := rest })) ∧
    (s.input = .noByte :: rest →
      s.kbdPoll = (none, { s with input := rest }) ∧ s.charIn = (none, { s with input := rest })) ∧
    (s.input = .ended :: rest → s.kbdPoll = (none, s) ∧ s.charIn = (none, s)) ∧
    s.kbdPoll = s.charIn

/-! ## Operate instructions -/

/-- ADD, both forms: the sum modulo 2^16, the flag of it, and nothing else (41_operate.md, ADD). -/
def Obligations.AddWritesTheSumModulo65536 : Prop :=
  ∀ (dr sr1 : Reg) (s : State),
    (∀ sr2, ∃ t, exec (.addReg dr sr1 sr2) s = .next t ∧
      (t.reg dr).toNat = ((s.reg sr1).toNat + (s.reg sr2).toNat) % 65536 ∧
      FlagDescribes t.cond (t.reg dr) ∧ RegsKeptBut dr s t ∧ t.pc = s.pc ∧ OutsideKept s t) ∧
    (∀ imm5, ∃ t, exec (.addImm dr sr1 imm5) s = .next t ∧
      (t.reg dr).toNat = ((s.reg sr1).toNat + (imm5.signExtend 16).toNat) % 65536 ∧
      FlagDescribes t.cond (t.reg dr) ∧ RegsKeptBut dr s t ∧ t.pc = s.pc ∧ OutsideKept s t)

/-- AND, both forms: bit k of the result is 1 exactly when it is 1 in both operands, the immediate sign-extended
(41_operate.md, AND). -/
def Obligations.AndWritesTheBitwiseAnd : Prop :=
  ∀ (dr sr1 : Reg) (s : State),
    (∀ sr2, ∃ t, exec (.andReg dr sr1 sr2) s = .next t ∧
      (∀ k < 16, (t.reg dr).getLsbD k = ((s.reg sr1).getLsbD k && (s.reg sr2).getLsbD k)) ∧
      FlagDescribes t.cond (t.reg dr) ∧ RegsKeptBut dr s t ∧ t.pc = s.pc ∧ OutsideKept s t) ∧
    (∀ imm5, ∃ t, exec (.andImm dr sr1 imm5) s = .next t ∧
      (∀ k < 16, (t.reg dr).getLsbD k = ((s.reg sr1).getLsbD k && imm5.getLsbD (min k 4))) ∧
      FlagDescribes t.cond (t.reg dr) ∧ RegsKeptBut dr s t ∧ t.pc = s.pc ∧ OutsideKept s t)

/-- NOT writes 0xFFFF minus the source (41_operate.md, NOT). -/
def Obligations.NotWritesTheComplement : Prop :=
  ∀ (dr sr : Reg) (s : State), ∃ t, exec (.not dr sr) s = .next t ∧
    (t.reg dr).toNat = 65535 - (s.reg sr).toNat ∧
    FlagDescribes t.cond (t.reg dr) ∧ RegsKeptBut dr s t ∧ t.pc = s.pc ∧ OutsideKept s t

/-! ## Control transfer -/

/-- BR is taken exactly when some bit is set both in the mask and in bits 2:0 of COND, in every state; it changes nothing but
`pc` (42_control.md, BR). -/
def Obligations.BranchIsTakenWhenMaskMeetsCond : Prop :=
  ∀ (mask : BitVec 3) (off : BitVec 9) (s : State), ∃ t, exec (.br mask off) s = .next t ∧
    ((∃ k < 3, mask.getLsbD k = true ∧ s.cond.getLsbD k = true) → t.pc = s.pc + off.signExtend 16) ∧
    ((∀ k < 3, mask.getLsbD k = true → s.cond.getLsbD k = false) → t.pc = s.pc) ∧
    t.cond = s.cond ∧ RegsKept s t ∧ OutsideKept s t

/-- The eight masks (R173, which the spec marks as derived): with a legal COND, bit 2 of the mask tests NEGATIVE, bit 1 ZERO
and bit 0 POSITIVE; 000 is never taken and 111 always. -/
def Obligations.EightBranchMasks : Prop :=
  ∀ (mask : BitVec 3) (off : BitVec 9) (s : State), legalCond s.cond →
    ∃ t, exec (.br mask off) s = .next t ∧
      (s.cond = Config.FL_NEG → t.pc = if mask.getLsbD 2 then s.pc + off.signExtend 16 else s.pc) ∧
      (s.cond = Config.FL_ZRO → t.pc = if mask.getLsbD 1 then s.pc + off.signExtend 16 else s.pc) ∧
      (s.cond = Config.FL_POS → t.pc = if mask.getLsbD 0 then s.pc + off.signExtend 16 else s.pc) ∧
      (mask = 0b000 → t = s) ∧
      (mask = 0b111 → t.pc = s.pc + off.signExtend 16)

/-- JMP loads `pc` from the base register and changes nothing else; R7 is no special case, RET is JMP R7 (42_control.md,
JMP). -/
def Obligations.JmpLoadsPcFromTheBase : Prop :=
  ∀ (base : Reg) (s : State), ∃ t, exec (.jmp base) s = .next t ∧
    t.pc = s.reg base ∧ t.cond = s.cond ∧ RegsKept s t ∧ OutsideKept s t

/-- JSR saves the incremented PC in R7 and adds the offset; JSRR saves it FIRST and then loads `pc` from the base, so JSRR R7
only saves it (42_control.md, JSR). -/
def Obligations.JsrSavesPcInR7First : Prop :=
  ∀ s : State,
    (∀ off, ∃ t, exec (.jsr off) s = .next t ∧ t.reg .r7 = s.pc ∧ t.pc = s.pc + off.signExtend 16 ∧
      t.cond = s.cond ∧ RegsKeptBut .r7 s t ∧ OutsideKept s t) ∧
    (∀ base, ∃ t, exec (.jsrr base) s = .next t ∧ t.reg .r7 = s.pc ∧
      (base ≠ .r7 → t.pc = s.reg base) ∧ (base = .r7 → t.pc = s.pc) ∧
      t.cond = s.cond ∧ RegsKeptBut .r7 s t ∧ OutsideKept s t)

/-! ## Loads -/

/-- LD and LDR write the word the read port gives for their address, and its flag; besides, only what that one read does
(43_load.md, LD and LDR). -/
def Obligations.LdAndLdrLoadThroughTheReadPort : Prop :=
  ∀ (dr : Reg) (s : State),
    (∀ off, ∃ t, exec (.ld dr off) s = .next t ∧
      t.reg dr = (s.memRead (s.pc + off.signExtend 16)).1 ∧
      (s.pc + off.signExtend 16 ≠ Config.KBSR_ADDR → t.reg dr = s.word (s.pc + off.signExtend 16)) ∧
      FlagDescribes t.cond (t.reg dr) ∧ RegsKeptBut dr s t ∧ t.pc = s.pc ∧
      ReadPortEffect (s.pc + off.signExtend 16) s t) ∧
    (∀ base off, ∃ t, exec (.ldr dr base off) s = .next t ∧
      t.reg dr = (s.memRead (s.reg base + off.signExtend 16)).1 ∧
      (s.reg base + off.signExtend 16 ≠ Config.KBSR_ADDR → t.reg dr = s.word (s.reg base + off.signExtend 16)) ∧
      FlagDescribes t.cond (t.reg dr) ∧ RegsKeptBut dr s t ∧ t.pc = s.pc ∧
      ReadPortEffect (s.reg base + off.signExtend 16) s t)

/-- LDI reads its pointer and then the word the pointer names, both through the read port, and writes that word and its flag;
besides, only what those two reads do, in that order (43_load.md, LDI). -/
def Obligations.LdiLoadsThroughItsPointer : Prop :=
  ∀ (dr : Reg) (off : BitVec 9) (s s1 : State) (ptr : Word),
    s.memRead (s.pc + off.signExtend 16) = (ptr, s1) →
    ∃ t, exec (.ldi dr off) s = .next t ∧
      t.reg dr = (s1.memRead ptr).1 ∧
      (s.pc + off.signExtend 16 ≠ Config.KBSR_ADDR → ptr = s.word (s.pc + off.signExtend 16)) ∧
      (ptr ≠ Config.KBSR_ADDR → t.reg dr = s1.word ptr) ∧
      FlagDescribes t.cond (t.reg dr) ∧ RegsKeptBut dr s t ∧ t.pc = s.pc ∧
      ReadPortEffect (s.pc + off.signExtend 16) s s1 ∧ ReadPortEffect ptr s1 t

/-- LEA writes the address and its flag and reads no memory, so no poll is made even for the status word's address (43_load.md,
LEA). -/
def Obligations.LeaWritesTheAddress : Prop :=
  ∀ (dr : Reg) (off : BitVec 9) (s : State), ∃ t, exec (.lea dr off) s = .next t ∧
    t.reg dr = s.pc + off.signExtend 16 ∧
    FlagDescribes t.cond (t.reg dr) ∧ RegsKeptBut dr s t ∧ t.pc = s.pc ∧ OutsideKept s t

/-! ## Stores -/

/-- The store class: ST, STI and STR write the whole source register to their address and change no register, no `pc` and no
COND; a store to a device word is plain storage; besides the stored word, memory changes only where STI's pointer read
polls; and a store over the next instruction is what is fetched next (R210). -/
def Obligations.StoresWriteOneWholeWord : Prop :=
  ∀ (sr : Reg) (s : State),
    (∀ off, ∃ t, exec (.st sr off) s = .next t ∧
      t.word (s.pc + off.signExtend 16) = s.reg sr ∧
      (∀ a, a ≠ s.pc + off.signExtend 16 → t.word a = s.word a) ∧
      RegsKept s t ∧ t.pc = s.pc ∧ t.cond = s.cond ∧
      t.output = s.output ∧ InputKept s t ∧ t.halted = s.halted ∧ t.busy = s.busy ∧
      (s.pc + off.signExtend 16 = t.pc → t.pc ≠ Config.KBSR_ADDR → t.fetched = s.reg sr)) ∧
    (∀ base off, ∃ t, exec (.str sr base off) s = .next t ∧
      t.word (s.reg base + off.signExtend 16) = s.reg sr ∧
      (∀ a, a ≠ s.reg base + off.signExtend 16 → t.word a = s.word a) ∧
      RegsKept s t ∧ t.pc = s.pc ∧ t.cond = s.cond ∧
      t.output = s.output ∧ InputKept s t ∧ t.halted = s.halted ∧ t.busy = s.busy ∧
      (s.reg base + off.signExtend 16 = t.pc → t.pc ≠ Config.KBSR_ADDR → t.fetched = s.reg sr)) ∧
    (∀ off ptr s1, s.memRead (s.pc + off.signExtend 16) = (ptr, s1) →
      ∃ t, exec (.sti sr off) s = .next t ∧
        (s.pc + off.signExtend 16 ≠ Config.KBSR_ADDR → ptr = s.word (s.pc + off.signExtend 16)) ∧
        ReadPortEffect (s.pc + off.signExtend 16) s s1 ∧
        t.word ptr = s.reg sr ∧ (∀ a, a ≠ ptr → t.word a = s1.word a) ∧
        RegsKept s t ∧ t.pc = s.pc ∧ t.cond = s.cond ∧
        t.output = s.output ∧ InputKept s1 t ∧ t.halted = s.halted ∧ t.busy = s.busy ∧
        (ptr = t.pc → t.pc ≠ Config.KBSR_ADDR → t.fetched = s.reg sr))

/-! ## TRAP and its services -/

/-- GETC: R7 gets the PC; when a byte is handed over it goes to R0 zero-extended with its flag and nothing is echoed; while
none is, the service waits with nothing but R7 written (45_trap.md, GETC and section 2; 60_exceptions.md section 2). -/
def Obligations.GetcReadsOneByteOrWaits : Prop :=
  ∀ s s' : State,
    (∀ c : Byte, s.charIn = (some c, s') →
      ∃ t, exec .getc s = .next t ∧ (t.reg .r0).toNat = c.toNat ∧ t.reg .r7 = s.pc ∧
        (∀ r, r ≠ .r0 → r ≠ .r7 → t.reg r = s.reg r) ∧
        t.cond = (if c = 0 then Config.FL_ZRO else Config.FL_POS) ∧
        t.pc = s.pc ∧ MemoryKept s t ∧ t.output = s.output ∧ t.halted = s.halted ∧ t.busy = none ∧ InputKept s' t) ∧
    (s.charIn = (none, s') →
      ∃ t, exec .getc s = .next t ∧ t.reg .r7 = s.pc ∧ RegsKeptBut .r7 s t ∧ t.cond = s.cond ∧
        t.pc = s.pc ∧ MemoryKept s t ∧ t.output = s.output ∧ t.halted = s.halted ∧ t.busy = some .getc ∧
        InputKept s' t)

/-- IN: as GETC, with the prompt written before the read and the byte echoed after it (45_trap.md, IN; the prompt's text is the
parameter `IN_PROMPT`, the spec's decision D13). -/
def Obligations.InPromptsReadsAndEchoesOrWaits : Prop :=
  ∀ s s' : State,
    (∀ c : Byte, s.charIn = (some c, s') →
      ∃ t, exec .inp s = .next t ∧ (t.reg .r0).toNat = c.toNat ∧ t.reg .r7 = s.pc ∧
        (∀ r, r ≠ .r0 → r ≠ .r7 → t.reg r = s.reg r) ∧
        t.cond = (if c = 0 then Config.FL_ZRO else Config.FL_POS) ∧
        t.pc = s.pc ∧ MemoryKept s t ∧ t.output = s.output ++ Config.IN_PROMPT ++ [c] ∧
        t.halted = s.halted ∧ t.busy = none ∧ InputKept s' t) ∧
    (s.charIn = (none, s') →
      ∃ t, exec .inp s = .next t ∧ t.reg .r7 = s.pc ∧ RegsKeptBut .r7 s t ∧ t.cond = s.cond ∧
        t.pc = s.pc ∧ MemoryKept s t ∧ t.output = s.output ++ Config.IN_PROMPT ∧ t.halted = s.halted ∧
        t.busy = some .inp ∧ InputKept s' t)

/-- OUT writes the low byte of R0, R7 gets the PC, and nothing else changes (45_trap.md, OUT). -/
def Obligations.OutWritesTheLowByteOfR0 : Prop :=
  ∀ s : State, ∃ t, exec .out s = .next t ∧
    t.output = s.output ++ [BitVec.ofNat 8 ((s.reg .r0).toNat % 256)] ∧
    t.reg .r7 = s.pc ∧ RegsKeptBut .r7 s t ∧ t.cond = s.cond ∧ t.pc = s.pc ∧ MemoryKept s t ∧
    InputKept s t ∧ t.halted = s.halted ∧ t.busy = s.busy

/-- PUTS on a string in plain memory of fewer than 65536 words (the bound of log entry 5; a longer string goes on in the next
step): one byte a word, the low one, up to the zero word; R7 gets the PC; nothing else changes (45_trap.md, PUTS). -/
def Obligations.PutsWritesAPlainString : Prop :=
  ∀ (s : State) (ws : List Word), PlainString s (s.reg .r0) ws → ws.length < Config.STRING_BURST →
    ∃ t, exec .puts s = .next t ∧ t.output = s.output ++ ws.map (fun w => BitVec.ofNat 8 (w.toNat % 256)) ∧
      t.reg .r7 = s.pc ∧ RegsKeptBut .r7 s t ∧ t.cond = s.cond ∧ t.pc = s.pc ∧ MemoryKept s t ∧
      InputKept s t ∧ t.halted = s.halted ∧ t.busy = none

/-- PUTSP on a string in plain memory of fewer than 65536 words: for each word the low byte, then the high byte if it is not
zero, up to the zero word (45_trap.md, PUTSP). -/
def Obligations.PutspWritesAPlainString : Prop :=
  ∀ (s : State) (ws : List Word), PlainString s (s.reg .r0) ws → ws.length < Config.STRING_BURST →
    ∃ t, exec .putsp s = .next t ∧ t.output = s.output ++ ws.flatMap upToTwoCharacters ∧
      t.reg .r7 = s.pc ∧ RegsKeptBut .r7 s t ∧ t.cond = s.cond ∧ t.pc = s.pc ∧ MemoryKept s t ∧
      InputKept s t ∧ t.halted = s.halted ∧ t.busy = none

/-- Wherever its string lies, the status word among its addresses: if the loop of the pseudocode ends within 65536 words, PUTS
ends as that loop does, and so does PUTSP (45_trap.md section 3, decisions D11 and D12 of the spec; the bound is log entry
5's). -/
def Obligations.StringServicesEndAsTheirLoopDoes : Prop :=
  ∀ (s u : State) (n : Nat), n ≤ Config.STRING_BURST →
    (StringRun oneCharacter n (s.reg .r0) s.enterTrap u → exec .puts s = .next { u with busy := none }) ∧
    (StringRun upToTwoCharacters n (s.reg .r0) s.enterTrap u → exec .putsp s = .next { u with busy := none })

/-- A string whose loop has not ended within 65536 words is no fault: the step answers a next state that is where those words of
the loop lead (their bytes written, in order), with the service to go on at the next word, 65536 words on, modulo 2^16; only
R7, the output, the device words and the input have changed (40_instruction_cycle.md section 3, R141; the bound, and the
next state in the middle of a cycle, are log entry 5's). -/
def Obligations.EndlessStringsAreNoFault : Prop :=
  ∀ s : State,
    ((∀ n ≤ Config.STRING_BURST, ∀ u, ¬ StringRun oneCharacter n (s.reg .r0) s.enterTrap u) →
      ∃ u t, StringPart oneCharacter Config.STRING_BURST (s.reg .r0) s.enterTrap u ∧ exec .puts s = .next t ∧
        t = { u with busy := some (.puts (s.reg .r0 + BitVec.ofNat 16 Config.STRING_BURST)) } ∧
        t.reg .r7 = s.pc ∧ RegsKeptBut .r7 s t ∧
        t.cond = s.cond ∧ t.pc = s.pc ∧ t.halted = s.halted ∧ s.output.length + Config.STRING_BURST = t.output.length ∧
        (∀ b, b ≠ Config.KBSR_ADDR → b ≠ Config.KBDR_ADDR → t.word b = s.word b)) ∧
    ((∀ n ≤ Config.STRING_BURST, ∀ u, ¬ StringRun upToTwoCharacters n (s.reg .r0) s.enterTrap u) →
      ∃ u t, StringPart upToTwoCharacters Config.STRING_BURST (s.reg .r0) s.enterTrap u ∧ exec .putsp s = .next t ∧
        t = { u with busy := some (.putsp (s.reg .r0 + BitVec.ofNat 16 Config.STRING_BURST)) } ∧
        t.reg .r7 = s.pc ∧ RegsKeptBut .r7 s t ∧
        t.cond = s.cond ∧ t.pc = s.pc ∧ t.halted = s.halted ∧ s.output.length + Config.STRING_BURST ≤ t.output.length ∧
        (∀ b, b ≠ Config.KBSR_ADDR → b ≠ Config.KBDR_ADDR → t.word b = s.word b))

/-- HALT writes the banner, sets the halt latch and saves the PC in R7; no other register and no memory word changes
(45_trap.md, HALT; the banner's text is the parameter `HALT_BANNER`, the spec's decision D14). -/
def Obligations.HaltWritesTheBannerAndStops : Prop :=
  ∀ s : State, ∃ t, exec .halt s = .next t ∧
    t.halted = true ∧ t.output = s.output ++ Config.HALT_BANNER ∧
    t.reg .r7 = s.pc ∧ RegsKeptBut .r7 s t ∧ t.cond = s.cond ∧ t.pc = s.pc ∧ MemoryKept s t ∧
    InputKept s t ∧ t.busy = s.busy

/-- TRAP with any selector outside the six saves the PC in R7 and does nothing else (45_trap.md, R250, the spec's decision D9);
the two reserved opcodes do nothing at all (46_reserved.md). -/
def Obligations.UnlistedTrapsAndReservedOpcodes : Prop :=
  ∀ s : State,
    (∀ v, ∃ t, exec (.trap v) s = .next t ∧ t.reg .r7 = s.pc ∧ RegsKeptBut .r7 s t ∧ t.cond = s.cond ∧
      t.pc = s.pc ∧ OutsideKept s t) ∧
    exec .res8 s = .next s ∧ exec .res13 s = .next s

/-! ## The instruction cycle -/

/-- The fetch reads through the read port and increments `pc` before anything else: the step is `exec` of the fetched word's
instruction, in the state with the incremented PC and the read's effect; at the status word's address the word is what the
poll leaves (R131). -/
def Obligations.StepRunsTheFetchedInstruction : Prop :=
  ∀ s : State, s.halted = false → s.busy = none →
    (∀ w s', s.memRead s.pc = (w, s') → step s = exec (decode w) { s' with pc := s.pc + 1 }) ∧
    (∀ i : Instr, i.wf = true → s.pc ≠ Config.KBSR_ADDR → decode (s.word s.pc) = i →
      step s = exec i { s with pc := s.pc + 1 }) ∧
    (s.pc = Config.KBSR_ADDR → ∃ s', (s.memRead s.pc).2 = s' ∧ step s = .next { s' with pc := s.pc + 1 })

/-- The word placed by `withFetchWord` is the one the very next step runs (the interface's own operation, log entry 10). -/
def Obligations.PlacedWordIsRunNext : Prop :=
  ∀ (s : State) (w : Word),
    step (s.withFetchWord 16 w.toNat) =
      exec (decode w)
        { s.withFetchWord 16 w.toNat with pc := (s.withFetchWord 16 w.toNat).pc + 1 }

/-- A cycle that has not ended goes on: a waiting GETC or IN ends when a byte is handed over, with nothing fetched and `pc` left
alone, and goes on waiting while none is (45_trap.md section 2, 60_exceptions.md R275, R287; log entry 6). -/
def Obligations.WaitingReadsGoOn : Prop :=
  ∀ s s' : State, s.halted = false →
    (∀ c : Byte, s.charIn = (some c, s') → (s.busy = some .getc ∨ s.busy = some .inp) →
      ∃ t, step s = .next t ∧ (t.reg .r0).toNat = c.toNat ∧ RegsKeptBut .r0 s t ∧
        t.cond = (if c = 0 then Config.FL_ZRO else Config.FL_POS) ∧ t.pc = s.pc ∧ MemoryKept s t ∧
        (s.busy = some .getc → t.output = s.output) ∧ (s.busy = some .inp → t.output = s.output ++ [c]) ∧
        t.halted = false ∧ t.busy = none ∧ InputKept s' t) ∧
    (s.charIn = (none, s') → (s.busy = some .getc ∨ s.busy = some .inp) →
      ∃ t, step s = .next t ∧ RegsKept s t ∧ t.cond = s.cond ∧ t.pc = s.pc ∧ MemoryKept s t ∧
        t.output = s.output ∧ t.halted = false ∧ t.busy = s.busy ∧ InputKept s' t)

/-- Once the input stream has ended a waiting read never completes: the step leaves the whole state as it is, so every
later step does too (R233, the spec's decision D15; log entry 6). -/
def Obligations.EndedInputLeavesReadsWaiting : Prop :=
  ∀ (s : State) (rest : List Config.InputAnswer), s.halted = false → s.input = .ended :: rest →
    (s.busy = some .getc ∨ s.busy = some .inp) → step s = .next s

/-- A PUTS or PUTSP that has not ended goes on where it left off, at the word at `a`, with nothing fetched: the step ends it as
the loop ends if that is within 65536 words, and else does 65536 words of the loop and leaves it to go on at the next one
(45_trap.md section 3, 40_instruction_cycle.md section 3; the states in the middle of a cycle, and the bound, are log entry
5's). -/
def Obligations.StringServicesGoOnWhereTheyLeftOff : Prop :=
  ∀ (s : State) (a : Word), s.halted = false →
    (s.busy = some (.puts a) →
      (∀ n ≤ Config.STRING_BURST, ∀ u, StringRun oneCharacter n a s u → step s = .next { u with busy := none }) ∧
      ((∀ n ≤ Config.STRING_BURST, ∀ u, ¬ StringRun oneCharacter n a s u) →
        ∃ u, StringPart oneCharacter Config.STRING_BURST a s u ∧
          step s = .next { u with busy := some (.puts (a + BitVec.ofNat 16 Config.STRING_BURST)) })) ∧
    (s.busy = some (.putsp a) →
      (∀ n ≤ Config.STRING_BURST, ∀ u, StringRun upToTwoCharacters n a s u → step s = .next { u with busy := none }) ∧
      ((∀ n ≤ Config.STRING_BURST, ∀ u, ¬ StringRun upToTwoCharacters n a s u) →
        ∃ u, StringPart upToTwoCharacters Config.STRING_BURST a s u ∧
          step s = .next { u with busy := some (.putsp (a + BitVec.ofNat 16 Config.STRING_BURST)) }))

/-- Which cycles a step may leave unfinished: those of GETC, IN, PUTS and PUTSP, and what goes on is the service the step worked
on; every other instruction has completed when its step ends (40_instruction_cycle.md section 3, R141; 60_exceptions.md
section 2, R275; that such a cycle shows a next state is the model's form, log entries 5 and 6). -/
def Obligations.OnlyFourServicesLeaveACycleUnfinished : Prop :=
  ∀ s t : State, step s = .next t → t.busy ≠ none →
    t.current = s.current ∧
      (s.current = .getc ∨ s.current = .inp ∨ s.current = .puts ∨ s.current = .putsp)

/-- A halted block takes no step, whatever else holds (R139, the spec's decision D26; log entry 7). -/
def Obligations.HaltedBlockTakesNoStep : Prop :=
  ∀ s : State, s.halted = true → step s = .fault .halted

/-- The block raises no exception and meets no fault: every instruction in every state answers a next state, and so does every
step of a block that is not halted (60_exceptions.md section 1, 30_encoding.md R109). A next state is not always a completed
cycle: for GETC and IN without a byte and for PUTS and PUTSP on an endless string it is the model's form of a cycle that goes
on (log entries 5 and 6). That a halted block faults is the model's form too (log entry 7). -/
def Obligations.NothingFaultsButAHaltedBlock : Prop :=
  (∀ (i : Instr) (s : State), ∃ t, exec i s = .next t) ∧
  (∀ s : State, s.halted = false → ∃ t, step s = .next t) ∧
  (∀ s : State, s.Safe)

/-! ## Whole-machine rules -/

/-- The condition-flag state machine: Z at reset; when an operation of the flag-writing set completes, COND is the flag of what
its destination register holds then; every other operation leaves COND unchanged (R32). The last clause, that COND is unchanged while a cycle has not ended, is about
the model's own states in the middle of a cycle (log entries 5 and 6; 60_exceptions.md section 2, R275). -/
def Obligations.CondChangesOnlyByTheFlagWritingSet : Prop :=
  State.reset.cond = Config.FL_ZRO ∧
  ∀ s t : State, step s = .next t →
    (∀ dst, flagDest s.current = some dst → t.busy = none → FlagDescribes t.cond (t.reg dst)) ∧
    (flagDest s.current = none → t.cond = s.cond) ∧
    (t.busy ≠ none → t.cond = s.cond)

/-- How each instruction leaves `pc`: the address of the instruction plus 1, but for a taken BR, JMP, JSR and JSRR (R26; R179 for
JSRR R7); TRAP does not change it. That a step which goes on with a service leaves `pc` alone is about the model's splitting of
a cycle into steps (log entries 5 and 6). -/
def Obligations.PcFollowsTheInstruction : Prop :=
  ∀ s t : State, step s = .next t →
    (s.busy = none → t.pc = nextPc s.current { s with pc := s.pc + 1 }) ∧
    (s.busy ≠ none → t.pc = s.pc)

/-- Who writes a register: the destination of the flag-writing set, R7 by JSR, JSRR and TRAP, which save the incremented PC
there, and R0 by GETC and IN; no step writes any other (10_state.md section 2, 45_trap.md section 4). The last clause, that a
cycle which has not ended has written no register but R7, is about the model's own states in the middle of a cycle (log
entries 5 and 6; 60_exceptions.md section 2, R275). -/
def Obligations.RegistersChangeOnlyAsDestinations : Prop :=
  ∀ s t : State, step s = .next t →
    (∀ r, flagDest s.current ≠ some r → ¬ (s.busy = none ∧ savesPc s.current = true ∧ r = .r7) →
      t.reg r = s.reg r) ∧
    (s.busy = none → savesPc s.current = true → t.reg .r7 = s.pc + 1) ∧
    (t.busy ≠ none → ∀ r, r ≠ .r7 → t.reg r = s.reg r)

/-- Which words of memory a step may change: the word a store stores to, and the two device words; nothing else, whatever runs
(44_store.md, 45_trap.md section 4). -/
def Obligations.MemoryChangesOnlyByStoresAndPolls : Prop :=
  ∀ s t : State, step s = .next t → ∀ a : Word, a ≠ Config.KBSR_ADDR → a ≠ Config.KBDR_ADDR →
    (s.busy = none → storeAddress s.current s.afterFetch ≠ some a) → t.word a = s.word a

/-- A run ends exactly when a step executes HALT: that step sets the latch, R7 and `pc` are the address of the HALT plus 1,
every other register, COND and every memory word are as before, and the output ends with the banner (R140). -/
def Obligations.RunEndsExactlyAtHalt : Prop :=
  ∀ s t : State, step s = .next t →
    (t.halted = true ↔ s.busy = none ∧ decode s.fetched = .halt) ∧
    (t.halted = true → t.reg .r7 = s.pc + 1 ∧ t.pc = s.pc + 1 ∧ RegsKeptBut .r7 s t ∧ t.cond = s.cond ∧
      MemoryKept s t ∧ t.output = s.output ++ Config.HALT_BANNER ∧ step t = .fault .halted)

/-- The output stream only grows: a step appends to it and never takes a byte back; only OUT, PUTS, IN, PUTSP and HALT append
(00_scope.md section 5, 45_trap.md section 4). -/
def Obligations.OutputOnlyGrowsAndOnlyByServices : Prop :=
  ∀ s t : State, step s = .next t → ∃ bytes, t.output = s.output ++ bytes ∧
    (bytes ≠ [] → s.current = .out ∨ s.current = .puts ∨ s.current = .inp ∨ s.current = .putsp ∨ s.current = .halt)

/-- Nothing reads COND but BR: any other step does the same from two states that differ in COND only, up to COND itself
(10_state.md section 4, R33, which the spec marks as derived). -/
def Obligations.OnlyBranchesReadCond : Prop :=
  ∀ (s : State) (c : Word), (∀ mask off, s.current ≠ .br mask off) → s.halted = false →
    ∃ t t', step s = .next t ∧ step { s with cond := c } = .next t' ∧ t' = { t with cond := t'.cond } ∧
      (t'.cond = t.cond ∨ (t.cond = s.cond ∧ t'.cond = c))

/-- A step asks the environment for at most one answer: what it leaves of the input is what was there, or that less one answer.
The model's property, not the spec's: a request is a poll of the read port (20_memory.md section 2, R52) or a blocking read
(45_trap.md section 2), the answers are held as log entry 4 says, and a string step reads at most 65536 words (log entry 5),
so the status word at most once. The spec bounds no cycle's answers. -/
def Obligations.StepTakesAtMostOneAnswer : Prop :=
  ∀ s t : State, step s = .next t →
    (t.input = s.input ∧ t.draws = s.draws) ∨ (t.input = s.draw.2.input ∧ t.draws = s.draw.2.draws)

/-- Every step keeps the invariant. That COND is legal is R31's, which the spec marks as derived. That memory is in canonical form
is about the model's own form of memory (log entry 3), and that a halted block has no service in progress is about the
model's own field `busy` and fault (log entries 5, 6 and 7). -/
def Obligations.StepKeepsTheInvariant : Prop :=
  ∀ s t : State, s.Inv → step s = .next t → t.Inv

/-- The invariant holds after RESET, and after RESET and any LOADs (70_reset_and_hazards.md sections 1 and 2). Its clause on COND is
R31's; its clauses on canonical memory (log entry 3) and on `busy` in a halted block (log entries 5, 6 and 7) are about the
model's own form of the state. -/
def Obligations.ResetAndLoadMeetTheInvariant : Prop :=
  State.reset.Inv ∧ ∀ (s : State) (images : List (List Byte)), (s.performReset.loadAll images).Inv

/-! ## Reset and load -/

/-- RESET, from any state: registers zero, `pc` at ENTRY, COND ZERO, every word of memory zero, not halted, output empty; the
first state has the same values (70_reset_and_hazards.md section 1, R300). The values of the halt latch and the output are the
spec's decision D25 (log entry 8). That no service is in progress is the model's choice (log entry 5). RESET keeps `input` and
`draws`, which are the environment's (log entry 4); nothing else of the state before survives. -/
def Obligations.ResetState : Prop :=
  (∀ s : State, (∀ r, s.performReset.reg r = 0x0000) ∧ s.performReset.pc = Config.ENTRY ∧
    s.performReset.cond = Config.FL_ZRO ∧ (∀ a, s.performReset.word a = 0x0000) ∧
    s.performReset.halted = false ∧ s.performReset.output = [] ∧ s.performReset.busy = none ∧
    InputKept s s.performReset) ∧
  (∀ r, State.reset.reg r = 0x0000) ∧ State.reset.pc = Config.ENTRY ∧ State.reset.cond = Config.FL_ZRO ∧
  (∀ a, State.reset.word a = 0x0000) ∧ State.reset.halted = false ∧ State.reset.output = []

/-- LOAD of one image: every address the image covers reads the image's word, big-endian, and every other address and all the
rest of the state are as before; it never wraps past 0xFFFF (70_reset_and_hazards.md section 2; a short or odd image is the
spec's decision D20). -/
def Obligations.LoadPlacesTheImage : Prop :=
  ∀ (s : State) (image : List Byte),
    (∀ a, (s.load image).word a = (imageAt image a).getD (s.word a)) ∧
    RegsKept s (s.load image) ∧ (s.load image).pc = s.pc ∧ (s.load image).cond = s.cond ∧
    (s.load image).halted = s.halted ∧ (s.load image).output = s.output ∧ (s.load image).busy = s.busy ∧
    InputKept s (s.load image)

/-- Images are loaded in order into one memory, and where two overlap the later one's words stand (R309). -/
def Obligations.LaterImagesTakePrecedence : Prop :=
  ∀ (s : State) (images : List (List Byte)) (last : List Byte) (a : Word),
    (s.loadAll (images ++ [last])).word a = (imageAt last a).getD ((s.loadAll images).word a) ∧
    (s.loadAll []).word a = s.word a
end

