-- ==== Sys2Proof/Laws/Memory.lean ====
section
/-! SUPPORT. The memory array: a read after a write, and that every operation on memory keeps the canonical form (log entry
3). -/

namespace Sys2Proof.Machine

/-! ## Read after write -/

theorem readWord_eraseCell_same (m : Memory) (a : Word) : readWord (eraseCell a.toNat m) a = unlistedWord := by
  induction m with
  | nil => rfl
  | cons c rest ih =>
    obtain ⟨k, v⟩ := c
    by_cases h : k = a.toNat <;> simp [eraseCell, readWord, h, ih]

theorem readWord_eraseCell_of_ne (m : Memory) {a : Word} {k : Nat} (h : a.toNat ≠ k) :
    readWord (eraseCell k m) a = readWord m a := by
  induction m with
  | nil => rfl
  | cons c rest ih =>
    obtain ⟨k', v⟩ := c
    by_cases hk : k' = k
    · simp [eraseCell, readWord, hk, ih, Ne.symm h]
    · by_cases ha : k' = a.toNat <;> simp [eraseCell, readWord, hk, ha, ih, h]

theorem readWord_insertCell_same (m : Memory) (a v : Word) : readWord (insertCell a.toNat v m) a = v := by
  induction m with
  | nil => simp [insertCell, readWord]
  | cons c rest ih =>
    obtain ⟨k', v'⟩ := c
    unfold insertCell
    split
    · simp [readWord]
    · split
      · simp [readWord]
      · next h => simp [readWord, h, ih]

theorem readWord_insertCell_of_ne (m : Memory) {a : Word} {k : Nat} (v : Word) (h : a.toNat ≠ k) :
    readWord (insertCell k v m) a = readWord m a := by
  induction m with
  | nil => simp [insertCell, readWord, Ne.symm h]
  | cons c rest ih =>
    obtain ⟨k', v'⟩ := c
    unfold insertCell
    split
    · simp [readWord, Ne.symm h]
    · split
      · next hk => simp [readWord, hk, Ne.symm h]
      · simp [readWord, ih]

/-- A read gives what was written there last (R67). -/
@[simp] theorem readWord_writeWord_same (m : Memory) (a v : Word) : readWord (writeWord m a v) a = v := by
  unfold writeWord
  split
  · next h => rw [readWord_eraseCell_same, h]
  · exact readWord_insertCell_same m a v

/-- A write leaves every other word alone (R56). -/
theorem readWord_writeWord_of_ne (m : Memory) {a b : Word} (v : Word) (h : b ≠ a) :
    readWord (writeWord m a v) b = readWord m b := by
  have hn : b.toNat ≠ a.toNat := fun e => h (BitVec.eq_of_toNat_eq e)
  unfold writeWord
  split
  · exact readWord_eraseCell_of_ne m hn
  · exact readWord_insertCell_of_ne m v hn

/-! ## The canonical form -/

theorem wfFrom_cons {lo k : Nat} {v : Word} {rest : Memory} :
    wfFrom lo ((k, v) :: rest) = true ↔ lo ≤ k ∧ k < 65536 ∧ v ≠ unlistedWord ∧ wfFrom (k + 1) rest = true := by
  simp [wfFrom, and_assoc]

theorem wfFrom_mono {lo lo' : Nat} {m : Memory} (h : lo' ≤ lo) (hm : wfFrom lo m = true) : wfFrom lo' m = true := by
  cases m with
  | nil => rfl
  | cons c rest =>
    obtain ⟨hk, hrest⟩ := wfFrom_cons.1 hm
    exact wfFrom_cons.2 ⟨by omega, hrest⟩

theorem wfFrom_eraseCell (k : Nat) (m : Memory) (lo : Nat) (hm : wfFrom lo m = true) :
    wfFrom lo (eraseCell k m) = true := by
  induction m generalizing lo with
  | nil => rfl
  | cons c rest ih =>
    obtain ⟨h1, h2, h3, h4⟩ := wfFrom_cons.1 hm
    unfold eraseCell
    split
    · exact wfFrom_mono (by omega) (ih _ h4)
    · exact wfFrom_cons.2 ⟨h1, h2, h3, ih _ h4⟩

theorem wfFrom_insertCell {k : Nat} {v : Word} (hk : k < 65536) (hv : v ≠ unlistedWord) (m : Memory) (lo : Nat)
    (hlo : lo ≤ k) (hm : wfFrom lo m = true) : wfFrom lo (insertCell k v m) = true := by
  induction m generalizing lo with
  | nil => exact wfFrom_cons.2 ⟨hlo, hk, hv, rfl⟩
  | cons c rest ih =>
    obtain ⟨h1, h2, h3, h4⟩ := wfFrom_cons.1 hm
    unfold insertCell
    split
    · exact wfFrom_cons.2 ⟨hlo, hk, hv, wfFrom_cons.2 ⟨by omega, h2, h3, h4⟩⟩
    · split
      · next he => exact wfFrom_cons.2 ⟨hlo, hk, hv, he ▸ h4⟩
      · exact wfFrom_cons.2 ⟨h1, h2, h3, ih _ (by omega) h4⟩

/-- A write keeps the canonical form. -/
theorem writeWord_wf {m : Memory} (a v : Word) (hm : Memory.wf m = true) : Memory.wf (writeWord m a v) = true := by
  unfold writeWord
  split
  · exact wfFrom_eraseCell _ _ _ hm
  · next hv => exact wfFrom_insertCell (by omega) hv _ _ (Nat.zero_le _) hm

/-- The memory of the reset state is in canonical form. -/
theorem reset_mem_wf : Memory.wf State.reset.mem = true := rfl

/-- Loading an image keeps the canonical form. -/
theorem loadWords_wf (bytes : List Byte) (a : Nat) (m : Memory) (hm : Memory.wf m = true) :
    Memory.wf (loadWords a bytes m) = true := by
  fun_induction loadWords a bytes m with
  | case1 a hi lo rest m ha ih => exact ih (writeWord_wf _ _ hm)
  | case2 => exact hm
  | case3 => exact hm

end Sys2Proof.Machine
end

