-- ==== Sys2Proof/Laws/PerInstr.lean ====
section
/-! SUPPORT. Statements about every instruction as syntax, one lemma for each constructor. Family OpcodeNibble: the word of an
instruction carries the opcode number of rule R108 in bits 15:12. -/

namespace Sys2Proof.Laws

/-- Taking a field out where it was placed gives it back. -/
theorem extract_place_same {n : Nat} (f : BitVec n) (lo : Nat) (h : lo + n ≤ 16) : (place f lo).extractLsb' lo n = f := by
  apply BitVec.eq_of_getLsbD_eq
  intro k hk
  have h16 : lo + k < 16 := by omega
  simp [place, hk, h16]

/-- Taking a field out above where another was placed gives zero. -/
theorem extract_place_below {n m : Nat} (f : BitVec n) (lo lo' : Nat) (h : lo + n ≤ lo') :
    (place f lo).extractLsb' lo' m = 0 := by
  apply BitVec.eq_of_getLsbD_eq
  intro k hk
  have hf : f.getLsbD (lo' + k - lo) = false := BitVec.getLsbD_of_ge _ _ (by omega)
  simp [place, hf]

/-- Taking a field out below where another was placed gives zero. -/
theorem extract_place_above {n m : Nat} (f : BitVec n) (lo lo' : Nat) (h : lo' + m ≤ lo) :
    (place f lo).extractLsb' lo' m = 0 := by
  apply BitVec.eq_of_getLsbD_eq
  intro k hk
  have hlt : lo' + k < lo := by omega
  simp [place, hlt]

theorem opcodeField_encodeOpr (op : BitVec 4) (dr sr1 sr2 : Reg) : opcodeField (encodeOpr op dr sr1 sr2) = op := by
  simp [opcodeField, encodeOpr, BitVec.extractLsb'_or, extract_place_same, extract_place_below]

theorem opcodeField_encodeOpi (op : BitVec 4) (dr sr1 : Reg) (imm5 : BitVec 5) :
    opcodeField (encodeOpi op dr sr1 imm5) = op := by
  simp [opcodeField, encodeOpi, BitVec.extractLsb'_or, extract_place_same, extract_place_below]

theorem opcodeField_encodePcRel (op : BitVec 4) (r : Reg) (off : BitVec 9) :
    opcodeField (encodePcRel op r off) = op := by
  simp [opcodeField, encodePcRel, BitVec.extractLsb'_or, extract_place_same, extract_place_below]

theorem opcodeField_encodeBase (op : BitVec 4) (r base : Reg) (off : BitVec 6) :
    opcodeField (encodeBase op r base off) = op := by
  simp [opcodeField, encodeBase, BitVec.extractLsb'_or, extract_place_same, extract_place_below]

theorem opcodeField_encodeTrap (v : BitVec 8) : opcodeField (encodeTrap v) = Config.OPC_TRAP := by
  simp [opcodeField, encodeTrap, BitVec.extractLsb'_or, extract_place_same, extract_place_below]

/-- The opcode number of each instruction (R108). -/
def opcodeOf : Instr → BitVec 4
  | .addReg _ _ _ => Config.OPC_ADD
  | .addImm _ _ _ => Config.OPC_ADD
  | .andReg _ _ _ => Config.OPC_AND
  | .andImm _ _ _ => Config.OPC_AND
  | .not _ _ => Config.OPC_NOT
  | .br _ _ => Config.OPC_BR
  | .jmp _ => Config.OPC_JMP
  | .jsr _ => Config.OPC_JSR
  | .jsrr _ => Config.OPC_JSR
  | .ld _ _ => Config.OPC_LD
  | .ldi _ _ => Config.OPC_LDI
  | .ldr _ _ _ => Config.OPC_LDR
  | .lea _ _ => Config.OPC_LEA
  | .st _ _ => Config.OPC_ST
  | .sti _ _ => Config.OPC_STI
  | .str _ _ _ => Config.OPC_STR
  | .getc => Config.OPC_TRAP
  | .out => Config.OPC_TRAP
  | .puts => Config.OPC_TRAP
  | .inp => Config.OPC_TRAP
  | .putsp => Config.OPC_TRAP
  | .halt => Config.OPC_TRAP
  | .trap _ => Config.OPC_TRAP
  | .res8 => Config.OPC_RES8
  | .res13 => Config.OPC_RES13

/-- The word of the instruction carries its opcode number in bits 15:12 (R91, R108). -/
def OpcodeNibble.Statement (i : Instr) : Prop := opcodeField (encode i) = opcodeOf i

theorem OpcodeNibble.addReg (dr sr1 sr2 : Reg) : OpcodeNibble.Statement (.addReg dr sr1 sr2) := by
  exact opcodeField_encodeOpr _ _ _ _

theorem OpcodeNibble.addImm (dr sr1 : Reg) (imm5 : BitVec 5) : OpcodeNibble.Statement (.addImm dr sr1 imm5) := by
  exact opcodeField_encodeOpi _ _ _ _

theorem OpcodeNibble.andReg (dr sr1 sr2 : Reg) : OpcodeNibble.Statement (.andReg dr sr1 sr2) := by
  exact opcodeField_encodeOpr _ _ _ _

theorem OpcodeNibble.andImm (dr sr1 : Reg) (imm5 : BitVec 5) : OpcodeNibble.Statement (.andImm dr sr1 imm5) := by
  exact opcodeField_encodeOpi _ _ _ _

theorem OpcodeNibble.not (dr sr : Reg) : OpcodeNibble.Statement (.not dr sr) := by
  simp [OpcodeNibble.Statement, opcodeField, encode, opcodeOf, BitVec.extractLsb'_or, extract_place_same, extract_place_below]

theorem OpcodeNibble.br (mask : BitVec 3) (off : BitVec 9) : OpcodeNibble.Statement (.br mask off) := by
  simp [OpcodeNibble.Statement, opcodeField, encode, opcodeOf, BitVec.extractLsb'_or, extract_place_same, extract_place_below]

theorem OpcodeNibble.jmp (base : Reg) : OpcodeNibble.Statement (.jmp base) := by
  simp [OpcodeNibble.Statement, opcodeField, encode, opcodeOf, BitVec.extractLsb'_or, extract_place_same, extract_place_below]

theorem OpcodeNibble.jsr (off : BitVec 11) : OpcodeNibble.Statement (.jsr off) := by
  simp [OpcodeNibble.Statement, opcodeField, encode, opcodeOf, BitVec.extractLsb'_or, extract_place_same, extract_place_below]

theorem OpcodeNibble.jsrr (base : Reg) : OpcodeNibble.Statement (.jsrr base) := by
  simp [OpcodeNibble.Statement, opcodeField, encode, opcodeOf, BitVec.extractLsb'_or, extract_place_same, extract_place_below]

theorem OpcodeNibble.ld (dr : Reg) (off : BitVec 9) : OpcodeNibble.Statement (.ld dr off) := by
  exact opcodeField_encodePcRel _ _ _

theorem OpcodeNibble.ldi (dr : Reg) (off : BitVec 9) : OpcodeNibble.Statement (.ldi dr off) := by
  exact opcodeField_encodePcRel _ _ _

theorem OpcodeNibble.ldr (dr base : Reg) (off : BitVec 6) : OpcodeNibble.Statement (.ldr dr base off) := by
  exact opcodeField_encodeBase _ _ _ _

theorem OpcodeNibble.lea (dr : Reg) (off : BitVec 9) : OpcodeNibble.Statement (.lea dr off) := by
  exact opcodeField_encodePcRel _ _ _

theorem OpcodeNibble.st (sr : Reg) (off : BitVec 9) : OpcodeNibble.Statement (.st sr off) := by
  exact opcodeField_encodePcRel _ _ _

theorem OpcodeNibble.sti (sr : Reg) (off : BitVec 9) : OpcodeNibble.Statement (.sti sr off) := by
  exact opcodeField_encodePcRel _ _ _

theorem OpcodeNibble.str (sr base : Reg) (off : BitVec 6) : OpcodeNibble.Statement (.str sr base off) := by
  exact opcodeField_encodeBase _ _ _ _

theorem OpcodeNibble.getc : OpcodeNibble.Statement (.getc) := by
  exact opcodeField_encodeTrap _

theorem OpcodeNibble.out : OpcodeNibble.Statement (.out) := by
  exact opcodeField_encodeTrap _

theorem OpcodeNibble.puts : OpcodeNibble.Statement (.puts) := by
  exact opcodeField_encodeTrap _

theorem OpcodeNibble.inp : OpcodeNibble.Statement (.inp) := by
  exact opcodeField_encodeTrap _

theorem OpcodeNibble.putsp : OpcodeNibble.Statement (.putsp) := by
  exact opcodeField_encodeTrap _

theorem OpcodeNibble.halt : OpcodeNibble.Statement (.halt) := by
  exact opcodeField_encodeTrap _

theorem OpcodeNibble.trap (v : BitVec 8) : OpcodeNibble.Statement (.trap v) := by
  exact opcodeField_encodeTrap _

theorem OpcodeNibble.res8 : OpcodeNibble.Statement (.res8) := by
  exact extract_place_same _ 12 (by decide)

theorem OpcodeNibble.res13 : OpcodeNibble.Statement (.res13) := by
  exact extract_place_same _ 12 (by decide)

end Sys2Proof.Laws
end

