-- ==== Sys2Proof/Laws/State.lean ====
section
/-! SUPPORT. One lemma for each field under each named update of the state, true by definition, so that no proof unfolds a
record update. -/

namespace Sys2Proof.Machine

variable (s : State)

/-! ### `setReg` -/

@[simp] theorem State.setReg_regs (i : Reg) (v : Word) : (s.setReg i v).regs = s.regs.set i v := rfl
@[simp] theorem State.setReg_pc (i : Reg) (v : Word) : (s.setReg i v).pc = s.pc := rfl
@[simp] theorem State.setReg_cond (i : Reg) (v : Word) : (s.setReg i v).cond = s.cond := rfl
@[simp] theorem State.setReg_mem (i : Reg) (v : Word) : (s.setReg i v).mem = s.mem := rfl
@[simp] theorem State.setReg_halted (i : Reg) (v : Word) : (s.setReg i v).halted = s.halted := rfl
@[simp] theorem State.setReg_output (i : Reg) (v : Word) : (s.setReg i v).output = s.output := rfl
@[simp] theorem State.setReg_input (i : Reg) (v : Word) : (s.setReg i v).input = s.input := rfl
@[simp] theorem State.setReg_draws (i : Reg) (v : Word) : (s.setReg i v).draws = s.draws := rfl
@[simp] theorem State.setReg_busy (i : Reg) (v : Word) : (s.setReg i v).busy = s.busy := rfl
@[simp] theorem State.setReg_word (i : Reg) (v : Word) (c : Word) : (s.setReg i v).word c = s.word c := rfl

/-! ### `setPc` -/

@[simp] theorem State.setPc_regs (v : Word) : (s.setPc v).regs = s.regs := rfl
@[simp] theorem State.setPc_pc (v : Word) : (s.setPc v).pc = v := rfl
@[simp] theorem State.setPc_cond (v : Word) : (s.setPc v).cond = s.cond := rfl
@[simp] theorem State.setPc_mem (v : Word) : (s.setPc v).mem = s.mem := rfl
@[simp] theorem State.setPc_halted (v : Word) : (s.setPc v).halted = s.halted := rfl
@[simp] theorem State.setPc_output (v : Word) : (s.setPc v).output = s.output := rfl
@[simp] theorem State.setPc_input (v : Word) : (s.setPc v).input = s.input := rfl
@[simp] theorem State.setPc_draws (v : Word) : (s.setPc v).draws = s.draws := rfl
@[simp] theorem State.setPc_busy (v : Word) : (s.setPc v).busy = s.busy := rfl
@[simp] theorem State.setPc_reg (v : Word) (r : Reg) : (s.setPc v).reg r = s.reg r := rfl
@[simp] theorem State.setPc_word (v : Word) (c : Word) : (s.setPc v).word c = s.word c := rfl

/-! ### `setCond` -/

@[simp] theorem State.setCond_regs (v : Word) : (s.setCond v).regs = s.regs := rfl
@[simp] theorem State.setCond_pc (v : Word) : (s.setCond v).pc = s.pc := rfl
@[simp] theorem State.setCond_cond (v : Word) : (s.setCond v).cond = v := rfl
@[simp] theorem State.setCond_mem (v : Word) : (s.setCond v).mem = s.mem := rfl
@[simp] theorem State.setCond_halted (v : Word) : (s.setCond v).halted = s.halted := rfl
@[simp] theorem State.setCond_output (v : Word) : (s.setCond v).output = s.output := rfl
@[simp] theorem State.setCond_input (v : Word) : (s.setCond v).input = s.input := rfl
@[simp] theorem State.setCond_draws (v : Word) : (s.setCond v).draws = s.draws := rfl
@[simp] theorem State.setCond_busy (v : Word) : (s.setCond v).busy = s.busy := rfl
@[simp] theorem State.setCond_reg (v : Word) (r : Reg) : (s.setCond v).reg r = s.reg r := rfl
@[simp] theorem State.setCond_word (v : Word) (c : Word) : (s.setCond v).word c = s.word c := rfl

/-! ### `setHalted` -/

@[simp] theorem State.setHalted_regs : (s.setHalted).regs = s.regs := rfl
@[simp] theorem State.setHalted_pc : (s.setHalted).pc = s.pc := rfl
@[simp] theorem State.setHalted_cond : (s.setHalted).cond = s.cond := rfl
@[simp] theorem State.setHalted_mem : (s.setHalted).mem = s.mem := rfl
@[simp] theorem State.setHalted_halted : (s.setHalted).halted = true := rfl
@[simp] theorem State.setHalted_output : (s.setHalted).output = s.output := rfl
@[simp] theorem State.setHalted_input : (s.setHalted).input = s.input := rfl
@[simp] theorem State.setHalted_draws : (s.setHalted).draws = s.draws := rfl
@[simp] theorem State.setHalted_busy : (s.setHalted).busy = s.busy := rfl
@[simp] theorem State.setHalted_reg (r : Reg) : (s.setHalted).reg r = s.reg r := rfl
@[simp] theorem State.setHalted_word (c : Word) : (s.setHalted).word c = s.word c := rfl

/-! ### `setBusy` -/

@[simp] theorem State.setBusy_regs (b : Option Service) : (s.setBusy b).regs = s.regs := rfl
@[simp] theorem State.setBusy_pc (b : Option Service) : (s.setBusy b).pc = s.pc := rfl
@[simp] theorem State.setBusy_cond (b : Option Service) : (s.setBusy b).cond = s.cond := rfl
@[simp] theorem State.setBusy_mem (b : Option Service) : (s.setBusy b).mem = s.mem := rfl
@[simp] theorem State.setBusy_halted (b : Option Service) : (s.setBusy b).halted = s.halted := rfl
@[simp] theorem State.setBusy_output (b : Option Service) : (s.setBusy b).output = s.output := rfl
@[simp] theorem State.setBusy_input (b : Option Service) : (s.setBusy b).input = s.input := rfl
@[simp] theorem State.setBusy_draws (b : Option Service) : (s.setBusy b).draws = s.draws := rfl
@[simp] theorem State.setBusy_busy (b : Option Service) : (s.setBusy b).busy = b := rfl
@[simp] theorem State.setBusy_reg (b : Option Service) (r : Reg) : (s.setBusy b).reg r = s.reg r := rfl
@[simp] theorem State.setBusy_word (b : Option Service) (c : Word) : (s.setBusy b).word c = s.word c := rfl

/-! ### `setWord` -/

@[simp] theorem State.setWord_regs (a v : Word) : (s.setWord a v).regs = s.regs := rfl
@[simp] theorem State.setWord_pc (a v : Word) : (s.setWord a v).pc = s.pc := rfl
@[simp] theorem State.setWord_cond (a v : Word) : (s.setWord a v).cond = s.cond := rfl
@[simp] theorem State.setWord_mem (a v : Word) : (s.setWord a v).mem = writeWord s.mem a v := rfl
@[simp] theorem State.setWord_halted (a v : Word) : (s.setWord a v).halted = s.halted := rfl
@[simp] theorem State.setWord_output (a v : Word) : (s.setWord a v).output = s.output := rfl
@[simp] theorem State.setWord_input (a v : Word) : (s.setWord a v).input = s.input := rfl
@[simp] theorem State.setWord_draws (a v : Word) : (s.setWord a v).draws = s.draws := rfl
@[simp] theorem State.setWord_busy (a v : Word) : (s.setWord a v).busy = s.busy := rfl
@[simp] theorem State.setWord_reg (a v : Word) (r : Reg) : (s.setWord a v).reg r = s.reg r := rfl

/-! ### `charOut` -/

@[simp] theorem State.charOut_regs (b : Byte) : (s.charOut b).regs = s.regs := rfl
@[simp] theorem State.charOut_pc (b : Byte) : (s.charOut b).pc = s.pc := rfl
@[simp] theorem State.charOut_cond (b : Byte) : (s.charOut b).cond = s.cond := rfl
@[simp] theorem State.charOut_mem (b : Byte) : (s.charOut b).mem = s.mem := rfl
@[simp] theorem State.charOut_halted (b : Byte) : (s.charOut b).halted = s.halted := rfl
@[simp] theorem State.charOut_output (b : Byte) : (s.charOut b).output = s.output ++ [b] := rfl
@[simp] theorem State.charOut_input (b : Byte) : (s.charOut b).input = s.input := rfl
@[simp] theorem State.charOut_draws (b : Byte) : (s.charOut b).draws = s.draws := rfl
@[simp] theorem State.charOut_busy (b : Byte) : (s.charOut b).busy = s.busy := rfl
@[simp] theorem State.charOut_reg (b : Byte) (r : Reg) : (s.charOut b).reg r = s.reg r := rfl
@[simp] theorem State.charOut_word (b : Byte) (c : Word) : (s.charOut b).word c = s.word c := rfl

/-! ### `charsOut` -/

@[simp] theorem State.charsOut_regs (bs : List Byte) : (s.charsOut bs).regs = s.regs := rfl
@[simp] theorem State.charsOut_pc (bs : List Byte) : (s.charsOut bs).pc = s.pc := rfl
@[simp] theorem State.charsOut_cond (bs : List Byte) : (s.charsOut bs).cond = s.cond := rfl
@[simp] theorem State.charsOut_mem (bs : List Byte) : (s.charsOut bs).mem = s.mem := rfl
@[simp] theorem State.charsOut_halted (bs : List Byte) : (s.charsOut bs).halted = s.halted := rfl
@[simp] theorem State.charsOut_output (bs : List Byte) : (s.charsOut bs).output = s.output ++ bs := rfl
@[simp] theorem State.charsOut_input (bs : List Byte) : (s.charsOut bs).input = s.input := rfl
@[simp] theorem State.charsOut_draws (bs : List Byte) : (s.charsOut bs).draws = s.draws := rfl
@[simp] theorem State.charsOut_busy (bs : List Byte) : (s.charsOut bs).busy = s.busy := rfl
@[simp] theorem State.charsOut_reg (bs : List Byte) (r : Reg) : (s.charsOut bs).reg r = s.reg r := rfl
@[simp] theorem State.charsOut_word (bs : List Byte) (c : Word) : (s.charsOut bs).word c = s.word c := rfl

/-! ### `setCC` -/

@[simp] theorem State.setCC_regs (i : Reg) : (s.setCC i).regs = s.regs := rfl
@[simp] theorem State.setCC_pc (i : Reg) : (s.setCC i).pc = s.pc := rfl
@[simp] theorem State.setCC_cond (i : Reg) : (s.setCC i).cond = flagOf (s.reg i) := rfl
@[simp] theorem State.setCC_mem (i : Reg) : (s.setCC i).mem = s.mem := rfl
@[simp] theorem State.setCC_halted (i : Reg) : (s.setCC i).halted = s.halted := rfl
@[simp] theorem State.setCC_output (i : Reg) : (s.setCC i).output = s.output := rfl
@[simp] theorem State.setCC_input (i : Reg) : (s.setCC i).input = s.input := rfl
@[simp] theorem State.setCC_draws (i : Reg) : (s.setCC i).draws = s.draws := rfl
@[simp] theorem State.setCC_busy (i : Reg) : (s.setCC i).busy = s.busy := rfl
@[simp] theorem State.setCC_reg (i : Reg) (r : Reg) : (s.setCC i).reg r = s.reg r := rfl
@[simp] theorem State.setCC_word (i : Reg) (c : Word) : (s.setCC i).word c = s.word c := rfl

/-! ### `setRegCC` -/

@[simp] theorem State.setRegCC_regs (i : Reg) (v : Word) : (s.setRegCC i v).regs = s.regs.set i v := rfl
@[simp] theorem State.setRegCC_pc (i : Reg) (v : Word) : (s.setRegCC i v).pc = s.pc := rfl
@[simp] theorem State.setRegCC_cond (i : Reg) (v : Word) : (s.setRegCC i v).cond = flagOf ((s.regs.set i v).get i) := rfl
@[simp] theorem State.setRegCC_mem (i : Reg) (v : Word) : (s.setRegCC i v).mem = s.mem := rfl
@[simp] theorem State.setRegCC_halted (i : Reg) (v : Word) : (s.setRegCC i v).halted = s.halted := rfl
@[simp] theorem State.setRegCC_output (i : Reg) (v : Word) : (s.setRegCC i v).output = s.output := rfl
@[simp] theorem State.setRegCC_input (i : Reg) (v : Word) : (s.setRegCC i v).input = s.input := rfl
@[simp] theorem State.setRegCC_draws (i : Reg) (v : Word) : (s.setRegCC i v).draws = s.draws := rfl
@[simp] theorem State.setRegCC_busy (i : Reg) (v : Word) : (s.setRegCC i v).busy = s.busy := rfl
@[simp] theorem State.setRegCC_word (i : Reg) (v : Word) (c : Word) : (s.setRegCC i v).word c = s.word c := rfl

/-! ### `enterTrap` -/

@[simp] theorem State.enterTrap_regs : (s.enterTrap).regs = s.regs.set .r7 s.pc := rfl
@[simp] theorem State.enterTrap_pc : (s.enterTrap).pc = s.pc := rfl
@[simp] theorem State.enterTrap_cond : (s.enterTrap).cond = s.cond := rfl
@[simp] theorem State.enterTrap_mem : (s.enterTrap).mem = s.mem := rfl
@[simp] theorem State.enterTrap_halted : (s.enterTrap).halted = s.halted := rfl
@[simp] theorem State.enterTrap_output : (s.enterTrap).output = s.output := rfl
@[simp] theorem State.enterTrap_input : (s.enterTrap).input = s.input := rfl
@[simp] theorem State.enterTrap_draws : (s.enterTrap).draws = s.draws := rfl
@[simp] theorem State.enterTrap_busy : (s.enterTrap).busy = s.busy := rfl
@[simp] theorem State.enterTrap_word (c : Word) : (s.enterTrap).word c = s.word c := rfl

/-! ### `memWrite` -/

@[simp] theorem State.memWrite_regs (a v : Word) : (s.memWrite a v).regs = s.regs := rfl
@[simp] theorem State.memWrite_pc (a v : Word) : (s.memWrite a v).pc = s.pc := rfl
@[simp] theorem State.memWrite_cond (a v : Word) : (s.memWrite a v).cond = s.cond := rfl
@[simp] theorem State.memWrite_mem (a v : Word) : (s.memWrite a v).mem = writeWord s.mem a v := rfl
@[simp] theorem State.memWrite_halted (a v : Word) : (s.memWrite a v).halted = s.halted := rfl
@[simp] theorem State.memWrite_output (a v : Word) : (s.memWrite a v).output = s.output := rfl
@[simp] theorem State.memWrite_input (a v : Word) : (s.memWrite a v).input = s.input := rfl
@[simp] theorem State.memWrite_draws (a v : Word) : (s.memWrite a v).draws = s.draws := rfl
@[simp] theorem State.memWrite_busy (a v : Word) : (s.memWrite a v).busy = s.busy := rfl
@[simp] theorem State.memWrite_reg (a v : Word) (r : Reg) : (s.memWrite a v).reg r = s.reg r := rfl

end Sys2Proof.Machine
end

