-- ==== Sys2Proof/Laws/Registers.lean ====
section
/-! SUPPORT. The register file: eight cells, each read back as written (10_state.md rule R22). -/

namespace Sys2Proof.Machine

@[simp] theorem Regs.get_set_same (g : Regs) (i : Reg) (v : Word) : (g.set i v).get i = v := by
  cases i <;> rfl

theorem Regs.get_set_of_ne (g : Regs) {i j : Reg} (v : Word) (h : j ≠ i) : (g.set i v).get j = g.get j := by
  cases i <;> cases j <;> first | rfl | exact absurd rfl h

@[simp] theorem State.setReg_reg_same (s : State) (i : Reg) (v : Word) : (s.setReg i v).reg i = v :=
  s.regs.get_set_same i v

theorem State.setReg_reg_of_ne (s : State) {i j : Reg} (v : Word) (h : j ≠ i) : (s.setReg i v).reg j = s.reg j :=
  s.regs.get_set_of_ne v h

@[simp] theorem State.setRegCC_reg_same (s : State) (i : Reg) (v : Word) : (s.setRegCC i v).reg i = v :=
  s.regs.get_set_same i v

theorem State.setRegCC_reg_of_ne (s : State) {i j : Reg} (v : Word) (h : j ≠ i) : (s.setRegCC i v).reg j = s.reg j :=
  s.regs.get_set_of_ne v h

@[simp] theorem State.enterTrap_reg_r7 (s : State) : s.enterTrap.reg .r7 = s.pc := rfl

theorem State.enterTrap_reg_of_ne (s : State) {j : Reg} (h : j ≠ .r7) : s.enterTrap.reg j = s.reg j :=
  s.setReg_reg_of_ne s.pc h

/-- What a flag-writing operation leaves in COND is the flag of the value it wrote (R138). -/
@[simp] theorem State.setRegCC_cond_value (s : State) (i : Reg) (v : Word) : (s.setRegCC i v).cond = flagOf v := by
  simp

end Sys2Proof.Machine
end

