-- ==== Sys2Proof/Laws/Ports.lean ====
section
/-! SUPPORT. What the shared operations can do, each said once: the environment's answers, the read port, and the flag rule. -/

namespace Sys2Proof.Machine

/-! ## The environment's answers -/

/-- Asking the environment touches the two fields of the input and nothing else. -/
theorem State.draw_frame (s : State) :
    s.draw.2 = { s with input := s.draw.2.input, draws := s.draw.2.draws } := by
  unfold State.draw
  split <;> rfl

/-- A poll leaves what asking leaves. -/
@[simp] theorem State.kbdPoll_snd (s : State) : s.kbdPoll.2 = s.draw.2 := by
  unfold State.kbdPoll
  split <;> simp [*]

/-- A blocking read, tried once, leaves what asking leaves. -/
@[simp] theorem State.charIn_snd (s : State) : s.charIn.2 = s.draw.2 := by
  unfold State.charIn
  split <;> simp [*]

/-! ## The read port -/

/-- What a poll's answer does to the device words touches memory only. -/
theorem latchPoll_frame (p : Option Byte × State) : latchPoll p = { p.2 with mem := (latchPoll p).mem } := by
  obtain ⟨_ | b, s⟩ := p <;> rfl

/-- A read of any address but the status word's is a pure lookup (R53). -/
theorem State.memRead_of_ne (s : State) {a : Word} (h : a ≠ Config.KBSR_ADDR) : s.memRead a = (s.word a, s) :=
  if_neg h

/-- A read of the status word's address polls first (R52). -/
theorem State.memRead_kbsr (s : State) :
    s.memRead Config.KBSR_ADDR = ((latchPoll s.kbdPoll).word Config.KBSR_ADDR, latchPoll s.kbdPoll) := rfl

/-- A read through the read port touches memory and the input, and no other field. -/
theorem State.memRead_frame (s : State) (a : Word) :
    (s.memRead a).2 =
      { s with mem := (s.memRead a).2.mem, input := (s.memRead a).2.input, draws := (s.memRead a).2.draws } := by
  by_cases h : a = Config.KBSR_ADDR
  · subst h
    rw [State.memRead_kbsr]
    show latchPoll s.kbdPoll = _
    rw [latchPoll_frame, State.kbdPoll_snd, State.draw_frame]
  · rw [s.memRead_of_ne h]

@[simp] theorem State.memRead_regs (s : State) (a : Word) : (s.memRead a).2.regs = s.regs := by
  rw [State.memRead_frame]

@[simp] theorem State.memRead_reg (s : State) (a : Word) (r : Reg) : (s.memRead a).2.reg r = s.reg r := by
  rw [State.memRead_frame]; rfl

@[simp] theorem State.memRead_pc (s : State) (a : Word) : (s.memRead a).2.pc = s.pc := by
  rw [State.memRead_frame]

@[simp] theorem State.memRead_cond (s : State) (a : Word) : (s.memRead a).2.cond = s.cond := by
  rw [State.memRead_frame]

@[simp] theorem State.memRead_halted (s : State) (a : Word) : (s.memRead a).2.halted = s.halted := by
  rw [State.memRead_frame]

@[simp] theorem State.memRead_output (s : State) (a : Word) : (s.memRead a).2.output = s.output := by
  rw [State.memRead_frame]

@[simp] theorem State.memRead_busy (s : State) (a : Word) : (s.memRead a).2.busy = s.busy := by
  rw [State.memRead_frame]

/-- A word of a state whose memory is `writeWord m a v`. -/
theorem State.setWord_word_same (s : State) (a v : Word) : (s.setWord a v).word a = v :=
  readWord_writeWord_same s.mem a v

theorem State.setWord_word_of_ne (s : State) {a b : Word} (v : Word) (h : b ≠ a) :
    (s.setWord a v).word b = s.word b :=
  readWord_writeWord_of_ne s.mem v h

/-- A poll's answer is latched with canonical memory kept. -/
theorem latchPoll_mem_wf (p : Option Byte × State) (h : Memory.wf p.2.mem = true) :
    Memory.wf (latchPoll p).mem = true := by
  obtain ⟨_ | b, s⟩ := p
  · exact writeWord_wf Config.KBSR_ADDR 0x0000 h
  · exact writeWord_wf Config.KBDR_ADDR (zext8 b) (writeWord_wf Config.KBSR_ADDR 0x8000 h)

/-- A read through the read port keeps the canonical form of memory. -/
theorem State.memRead_mem_wf (s : State) (a : Word) (h : Memory.wf s.mem = true) :
    Memory.wf (s.memRead a).2.mem = true := by
  by_cases ha : a = Config.KBSR_ADDR
  · subst ha
    refine latchPoll_mem_wf _ ?_
    rw [State.kbdPoll_snd, State.draw_frame]
    exact h
  · rw [s.memRead_of_ne ha]
    exact h

/-! ## The flag rule -/

/-- The flag rule always gives one of the three values (R31, R137). -/
theorem flagOf_cases (v : Word) : flagOf v = Config.FL_POS ∨ flagOf v = Config.FL_ZRO ∨ flagOf v = Config.FL_NEG := by
  unfold flagOf
  split
  · exact .inr (.inr rfl)
  · split
    · exact .inr (.inl rfl)
    · exact .inl rfl

end Sys2Proof.Machine
end

