-- ==== Sys2Proof/Laws/Strings.lean ====
section
/-! SUPPORT. What the loop of PUTS and PUTSP can do (45_trap.md rules R238, R244, R251), said once for both. -/

namespace Sys2Proof.Machine

variable (bytes : Word → List Byte) (inProgress : Word → Service)

/-- A zero word ends the loop, and nothing after it is read. -/
theorem stringLoop_stop {n : Nat} {a : Word} {s : State} (h : (s.memRead a).1 = 0) :
    stringLoop bytes inProgress (n + 1) a s = (s.memRead a).2.setBusy none := by
  rw [stringLoop, if_pos h]

/-- Any other word is written out, and the loop goes on at the next address. -/
theorem stringLoop_go {n : Nat} {a : Word} {s : State} (h : (s.memRead a).1 ≠ 0) :
    stringLoop bytes inProgress (n + 1) a s =
      stringLoop bytes inProgress n (a + 1) ((s.memRead a).2.charsOut (bytes (s.memRead a).1)) := by
  rw [stringLoop, if_neg h]

/-- A property of states that a read, an output and the note of the service in progress all keep is kept by the loop. -/
theorem stringLoop_keeps {P : State → Prop} (hRead : ∀ s a, P s → P (s.memRead a).2)
    (hOut : ∀ s bs, P s → P (State.charsOut s bs)) (hBusy : ∀ s b, P s → P (State.setBusy s b)) (n : Nat) (a : Word)
    (s : State) (h : P s) : P (stringLoop bytes inProgress n a s) := by
  induction n generalizing a s with
  | zero => exact hBusy _ _ h
  | succ n ih =>
    by_cases hz : (s.memRead a).1 = 0
    · rw [stringLoop_stop _ _ hz]
      exact hBusy _ _ (hRead _ _ h)
    · rw [stringLoop_go _ _ hz]
      exact ih _ _ (hOut _ _ (hRead _ _ h))

/-- The loop leaves the registers, `pc`, COND and the halt latch alone (R251, R252). -/
theorem stringLoop_frame (n : Nat) (a : Word) (s : State) :
    (stringLoop bytes inProgress n a s).regs = s.regs ∧ (stringLoop bytes inProgress n a s).pc = s.pc ∧
      (stringLoop bytes inProgress n a s).cond = s.cond ∧ (stringLoop bytes inProgress n a s).halted = s.halted :=
  stringLoop_keeps bytes inProgress (P := fun t => t.regs = s.regs ∧ t.pc = s.pc ∧ t.cond = s.cond ∧ t.halted = s.halted)
    (fun t b h => by simpa using h) (fun t b h => by simpa using h) (fun t b h => by simpa using h) n a s ⟨rfl, rfl, rfl, rfl⟩

/-- The loop keeps the canonical form of memory. -/
theorem stringLoop_mem_wf (n : Nat) (a : Word) (s : State) (h : Memory.wf s.mem = true) :
    Memory.wf (stringLoop bytes inProgress n a s).mem = true :=
  stringLoop_keeps bytes inProgress (P := fun t => Memory.wf t.mem = true) (fun t b => t.memRead_mem_wf b)
    (fun _ _ h => h) (fun _ _ h => h) n a s h

/-! ## The loop and its two relations -/

variable {bytes inProgress}

/-- Where the loop of the rules ends within the words one step reads, so does the model's, in the same state. -/
theorem StringRun.stringLoop_eq {n m : Nat} {a : Word} {s u : State} (h : StringRun bytes n a s u) (hm : n ≤ m) :
    stringLoop bytes inProgress m a s = { u with busy := none } := by
  induction h generalizing m with
  | stop a s s' hr =>
    obtain ⟨k, rfl⟩ : ∃ k, m = k + 1 := ⟨m - 1, by omega⟩
    rw [stringLoop_stop _ _ (by rw [hr]), hr]
    rfl
  | go n a w s s' t hr hw _ ih =>
    obtain ⟨k, rfl⟩ : ∃ k, m = k + 1 := ⟨m - 1, by omega⟩
    rw [stringLoop_go _ _ (by rw [hr]; exact hw), hr]
    exact ih (by omega)

/-- Where it does not, the model's loop has done as many words of it as it may, and names the next one. -/
theorem StringPart.stringLoop_eq {n : Nat} {a : Word} {s u : State} (h : StringPart bytes n a s u) :
    stringLoop bytes inProgress n a s = { u with busy := some (inProgress (a + BitVec.ofNat 16 n)) } := by
  induction h with
  | nothing a s => rw [BitVec.add_zero]; rfl
  | word n a w s s' t hr hw _ ih =>
    rw [stringLoop_go _ _ (by rw [hr]; exact hw), hr, ih, BitVec.add_assoc, BitVec.ofNat_add, BitVec.add_comm (1 : Word)]
    rfl

/-- One of the two holds, for any number of words. -/
theorem stringRun_or_stringPart (bytes : Word → List Byte) (n : Nat) (a : Word) (s : State) :
    (∃ m ≤ n, ∃ u, StringRun bytes m a s u) ∨ ∃ u, StringPart bytes n a s u := by
  induction n generalizing a s with
  | zero => exact .inr ⟨s, .nothing a s⟩
  | succ n ih =>
    by_cases hz : (s.memRead a).1 = 0
    · exact .inl ⟨1, by omega, _, .stop a s _ (Prod.ext hz rfl)⟩
    · rcases ih (a + 1) ((s.memRead a).2.charsOut (bytes (s.memRead a).1)) with ⟨m, hm, u, h⟩ | ⟨u, h⟩
      · exact .inl ⟨m + 1, by omega, u, .go m a _ s _ u rfl hz h⟩
      · exact .inr ⟨u, .word n a _ s _ u rfl hz h⟩

end Sys2Proof.Machine
end

