-- ==== Sys2Proof/Tests/Slice0.lean ====
section
/-! SUPPORT. The model's own tests. Expected results are the spec's own (95_test_vectors.md, by section) or are written out from its
tables by hand; none is the model's answer pasted back. Then a witness for each statement that has hypotheses. -/

namespace Sys2Proof.Tests

open Sys2Proof.Machine

/-! ## WellFormed: each ill-formed term is refused (30_encoding.md rules R110, R117) -/

theorem test_wf_refuses_trap_getc : (Instr.trap 0x20).wf = false := by decide

theorem test_wf_refuses_trap_out : (Instr.trap 0x21).wf = false := by decide

theorem test_wf_refuses_trap_puts : (Instr.trap 0x22).wf = false := by decide

theorem test_wf_refuses_trap_in : (Instr.trap 0x23).wf = false := by decide

theorem test_wf_refuses_trap_putsp : (Instr.trap 0x24).wf = false := by decide

theorem test_wf_refuses_trap_halt : (Instr.trap 0x25).wf = false := by decide

/-- The selectors on both sides of the six are well formed. -/
theorem test_wf_admits_other_traps : (Instr.trap 0x1F).wf = true ∧ (Instr.trap 0x26).wf = true := by decide

/-! ## Decoding: one word or more for each constructor, bit by bit from the tables of 30_encoding.md sections 2 and 4 -/

theorem test_decode_addReg : decode 0b0001_110_001_0_00_101#16 = .addReg .r6 .r1 .r5 := by decide

/-- The second item of the document's own list, E2. -/
theorem test_decode_addImm : decode 0b0001_010_001_1_11101#16 = .addImm .r2 .r1 0b11101 := by decide

theorem test_decode_andReg : decode 0b0101_010_000_0_00_001#16 = .andReg .r2 .r0 .r1 := by decide

theorem test_decode_andImm : decode 0b0101_011_100_1_10000#16 = .andImm .r3 .r4 0b10000 := by decide

theorem test_decode_not : decode 0b1001_001_010_111111#16 = .not .r1 .r2 := by decide

theorem test_decode_br : decode 0b0000_101_100000001#16 = .br 0b101 0b100000001 := by decide

theorem test_decode_jmp : decode 0b1100_000_010_000000#16 = .jmp .r2 := by decide

theorem test_decode_jsr : decode 0b0100_1_10000000001#16 = .jsr 0b10000000001 := by decide

theorem test_decode_jsrr : decode 0b0100_0_00_011_000000#16 = .jsrr .r3 := by decide

theorem test_decode_ld : decode 0b0010_001_111111110#16 = .ld .r1 0b111111110 := by decide

theorem test_decode_ldi : decode 0b1010_000_000000001#16 = .ldi .r0 0b000000001 := by decide

theorem test_decode_ldr : decode 0b0110_010_011_100000#16 = .ldr .r2 .r3 0b100000 := by decide

theorem test_decode_lea : decode 0b1110_001_100000000#16 = .lea .r1 0b100000000 := by decide

theorem test_decode_st : decode 0b0011_111_000000001#16 = .st .r7 0b000000001 := by decide

theorem test_decode_sti : decode 0b1011_000_000000011#16 = .sti .r0 0b000000011 := by decide

theorem test_decode_str : decode 0b0111_000_001_011111#16 = .str .r0 .r1 0b011111 := by decide

theorem test_decode_getc : decode 0b1111_0000_00100000#16 = .getc := by decide

/-- Bits 11:8 of a TRAP are ignored. -/
theorem test_decode_out : decode 0b1111_1111_00100001#16 = .out := by decide

theorem test_decode_puts : decode 0b1111_0000_00100010#16 = .puts := by decide

theorem test_decode_in : decode 0b1111_0000_00100011#16 = .inp := by decide

theorem test_decode_putsp : decode 0b1111_0000_00100100#16 = .putsp := by decide

theorem test_decode_halt : decode 0b1111_0000_00100101#16 = .halt := by decide

theorem test_decode_trap : decode 0b1111_0000_00100110#16 = .trap 0b00100110 := by decide

theorem test_decode_res8 : decode 0b1000_111111111111#16 = .res8 := by decide

theorem test_decode_res13 : decode 0b1101_000100100011#16 = .res13 := by decide

/-- The encoder writes a word of the table: `ADD R2,R1,#-3` is 0x147D (E2). -/
theorem test_encode_addImm : encode (.addImm .r2 .r1 0b11101) = 0x147D := by decide

/-- The table-word reader is the decoder (0x147D again). -/
theorem test_decodeTableWord : decodeTableWord 16 0x147D = some (.addImm .r2 .r1 0b11101) := by decide

/-! ## One step each -/

/-- The state after one step, if there is one. -/
def after (s : State) : Option State :=
  match step s with
  | .next t => some t
  | .fault _ => none
  | .refused _ => none

/-- One step from `s` with the word `w` placed where it is fetched, and what `view` shows of the state it gives. -/
def seen {α : Type} (view : State → α) (w : Nat) (s : State) : Option α := (after (s.withFetchWord 16 w)).map view

/-- The reset state with the program counter at `a`. -/
def startAt (a : Word) : State := State.reset.setPc a

/-- The reset state with these answers written out. -/
def withInput (answers : List Config.InputAnswer) : State := State.reset.supply answers

/-- Section 2.3: signed overflow is not recorded. -/
theorem test_addReg_overflow :
    seen (fun t => (t.reg .r0, t.cond, t.pc)) 0x1001 ((State.reset.setReg .r0 0x7FFF).setReg .r1 1) =
      some (0x8000, 0x0004, 0x3001) := by decide

/-- Section 2.3: the carry out is not recorded. -/
theorem test_addReg_carry :
    seen (fun t => (t.reg .r0, t.cond)) 0x1001 ((State.reset.setReg .r0 0xFFFF).setReg .r1 1) =
      some (0x0000, 0x0002) := by decide

/-- E2: 5 plus -3. -/
theorem test_addImm_negative :
    seen (fun t => (t.reg .r2, t.cond)) 0x147D (State.reset.setReg .r1 5) = some (0x0002, 0x0001) := by decide

/-- Section 2.3. -/
theorem test_andReg :
    seen (fun t => (t.reg .r2, t.cond)) 0x5401 ((State.reset.setReg .r0 0xF0F0).setReg .r1 0x0FF0) =
      some (0x00F0, 0x0001) := by decide

/-- Section 2.3: the immediate is sign-extended, not zero-extended. -/
theorem test_andImm_sign :
    seen (fun t => (t.reg .r1, t.cond)) 0x5270 (State.reset.setReg .r1 0x12FF) = some (0x12F0, 0x0001) := by decide

/-- Section 2.3: bits 5:0 of NOT are ignored. -/
theorem test_not_ignored_bits :
    seen (fun t => (t.reg .r1, t.cond)) 0x9280 (State.reset.setReg .r2 0x7FFF) = some (0x8000, 0x0004) := by decide

/-- Section 2.4: the farthest branch back. -/
theorem test_br_back : seen (fun t => t.pc) 0x0900 (State.reset.setCond 0x0004) = some 0x2F01 := by decide

/-- Section 2.4: the branch address wraps. -/
theorem test_br_wraps : seen (fun t => t.pc) 0x0E02 (startAt 0xFFFE) = some 0x0001 := by decide

/-- Section 2.4: ignored bits all ones. -/
theorem test_jmp : seen (fun t => (t.pc, t.cond)) 0xCEBF (State.reset.setReg .r2 0x4000) = some (0x4000, 0x0002) := by
  decide

/-- Section 2.4: the farthest jump back. -/
theorem test_jsr : seen (fun t => (t.reg .r7, t.pc)) 0x4C00 (startAt 0x3400) = some (0x3401, 0x3001) := by decide

/-- Section 2.4: JSRR R7 saves R7 before it reads it. -/
theorem test_jsrr_r7 :
    seen (fun t => (t.reg .r7, t.pc)) 0x41C0 ((startAt 0x3010).setReg .r7 0x5000) = some (0x3011, 0x3011) := by decide

/-- Section 2.4. -/
theorem test_jsrr_r3 :
    seen (fun t => (t.reg .r7, t.pc)) 0x40C0 ((startAt 0x3010).setReg .r3 0x5000) = some (0x3011, 0x5000) := by decide

/-- Section 2.5: the word of the instruction itself. -/
theorem test_ld_itself :
    seen (fun t => (t.reg .r1, t.cond)) 0x23FF (startAt 0x3005) = some (0x23FF, 0x0001) := by decide

/-- Section 2.5: through the status word, a byte being there. -/
theorem test_ldi_status_byte :
    seen (fun t => (t.reg .r0, t.cond, t.word 0xFE00, t.word 0xFE02, t.input)) 0xA001
        ((withInput [.byte 0x41]).setWord 0x3002 0xFE00) =
      some (0x8000, 0x0004, 0x8000, 0x0041, []) := by decide

/-- Section 2.5: through the status word, no byte being there; the data word is kept. -/
theorem test_ldi_status_empty :
    seen (fun t => (t.reg .r0, t.cond, t.word 0xFE00, t.word 0xFE02)) 0xA001
        (((withInput [.noByte]).setWord 0x3002 0xFE00).setWord 0xFE02 0x0055) =
      some (0x0000, 0x0002, 0x0000, 0x0055) := by decide

/-- Section 2.5: the address wraps down. -/
theorem test_ldr_wraps :
    seen (fun t => (t.reg .r2, t.cond)) 0x64FF (State.reset.setWord 0xFFFF 0x0001) = some (0x0001, 0x0001) := by decide

/-- Section 2.5: the destination is the base register. -/
theorem test_ldr_same_register :
    seen (fun t => t.reg .r1) 0x6240 ((State.reset.setReg .r1 0x4000).setWord 0x4000 0x4005) = some 0x4005 := by decide

/-- Section 2.5: LEA writes the flags. -/
theorem test_lea_flags :
    seen (fun t => (t.reg .r1, t.cond, t.pc)) 0xE200 (startAt 0x8FFF) = some (0x9000, 0x0004, 0x9000) := by decide

/-- Section 2.6: ST over itself. -/
theorem test_st_itself :
    seen (fun t => (t.word 0x3006, t.pc)) 0x31FF ((startAt 0x3006).setReg .r0 0xF025) = some (0xF025, 0x3007) := by decide

/-- Section 2.6. -/
theorem test_sti :
    seen (fun t => (t.word 0x4000, t.word 0x3007)) 0xB003
        (((startAt 0x3003).setReg .r0 0x0061).setWord 0x3007 0x4000) = some (0x0061, 0x4000) := by decide

/-- Section 2.6: a negative value is stored and COND stays. -/
theorem test_str :
    seen (fun t => (t.word 0x3009, t.cond)) 0x7041 ((State.reset.setReg .r0 0xFFF9).setReg .r1 0x3008) =
      some (0xFFF9, 0x0002) := by decide

/-- Section 2.6: a store to the status word is plain storage. -/
theorem test_str_status :
    seen (fun t => (t.word 0xFE00, t.draws)) 0x7040 ((State.reset.setReg .r0 0x1234).setReg .r1 0xFE00) =
      some (0x1234, 0) := by decide

/-- Section 2.7: zero-extended, never NEGATIVE, and not echoed. -/
theorem test_getc_byte :
    seen (fun t => (t.reg .r0, t.cond, t.reg .r7, t.output)) 0xF020 (withInput [.byte 0xFF]) =
      some (0x00FF, 0x0001, 0x3001, []) := by decide

/-- 60_exceptions.md R275: a read that waits has done nothing but the save of R7. -/
theorem test_getc_waits :
    seen (fun t => (t.reg .r0, t.cond, t.reg .r7, t.pc, t.busy)) 0xF020 (withInput [.noByte]) =
      some (0x0000, 0x0002, 0x3001, 0x3001, some .getc) := by decide

/-- Section 2.7. -/
theorem test_out :
    seen (fun t => (t.output, t.reg .r7, t.cond)) 0xF021 (State.reset.setReg .r0 0x1241) =
      some ([0x41], 0x3001, 0x0002) := by decide

/-- Section 2.7: the whole word is tested, the low byte is written. -/
theorem test_puts :
    seen (fun t => (t.output, t.busy)) 0xF022
        (((State.reset.setReg .r0 0x4000).setWord 0x4000 0x0100).setWord 0x4001 0x4142) =
      some ([0x00, 0x42], none) := by decide

/-- Section 2.7: the pointer wraps. -/
theorem test_puts_wraps :
    seen (fun t => (t.output, t.reg .r0)) 0xF022
        (((State.reset.setReg .r0 0xFFFF).setWord 0xFFFF 0x0058).setWord 0x0000 0x0059) =
      some ([0x58, 0x59], 0xFFFF) := by decide

/-- Section 2.7: the prompt "Enter a character: ", then the echo. -/
theorem test_in :
    seen (fun t => (t.output, t.reg .r0, t.cond)) 0xF023 (withInput [.byte 0x7A]) =
      some ([0x45, 0x6E, 0x74, 0x65, 0x72, 0x20, 0x61, 0x20, 0x63, 0x68, 0x61, 0x72, 0x61, 0x63, 0x74, 0x65, 0x72, 0x3A,
        0x20, 0x7A], 0x007A, 0x0001) := by decide

/-- Section 2.7: "Hey", the low byte first. -/
theorem test_putsp :
    seen (fun t => t.output) 0xF024
        (((State.reset.setReg .r0 0x4000).setWord 0x4000 0x6548).setWord 0x4001 0x0079) =
      some [0x48, 0x65, 0x79] := by decide

/-- Section 2.7: a low byte of zero is written, a high byte of zero is not. -/
theorem test_putsp_zero_bytes :
    seen (fun t => t.output) 0xF024
        (((State.reset.setReg .r0 0x4000).setWord 0x4000 0x4100).setWord 0x4001 0x0041) =
      some [0x00, 0x41, 0x41] := by decide

/-- E5: "HALT" and a newline, R7 the entry address plus 1. -/
theorem test_halt :
    seen (fun t => (t.halted, t.reg .r7, t.pc, t.output)) 0xF025 State.reset =
      some (true, 0x3001, 0x3001, [0x48, 0x41, 0x4C, 0x54, 0x0A]) := by decide

/-- Section 2.7: a selector that no service has saves R7 and does nothing else. -/
theorem test_trap_other :
    seen (fun t => (t.reg .r7, t.reg .r0, t.pc, t.output)) 0xFFFF (State.reset.setReg .r0 0x0011) =
      some (0x3001, 0x0011, 0x3001, []) := by decide

/-- Section 2.8. -/
theorem test_res8 :
    seen (fun t => (t.pc, t.cond, t.reg .r7)) 0x8FFF (State.reset.setCond 0x0004) = some (0x3001, 0x0004, 0x0000) := by
  decide

/-- Section 2.8. -/
theorem test_res13 :
    seen (fun t => (t.pc, t.cond, t.reg .r7)) 0xD123 (State.reset.setCond 0x0004) = some (0x3001, 0x0004, 0x0000) := by
  decide

/-- Section 2.9: a fetch at the status word's address runs what the poll leaves, not what was stored there. -/
theorem test_fetch_polls :
    (after (((withInput [.byte 0x41]).setPc 0xFE00).setWord 0xFE00 0xF025)).map
        (fun t => (t.pc, t.word 0xFE00, t.word 0xFE02, t.halted)) =
      some (0xFE01, 0x8000, 0x0041, false) := by decide

/-- Section 2.10: big-endian, and no word past address 0xFFFF. -/
theorem test_load_no_wrap :
    ((State.reset.load [0xFF, 0xFF, 0x00, 0x01, 0x00, 0x02]).word 0xFFFF,
      (State.reset.load [0xFF, 0xFF, 0x00, 0x01, 0x00, 0x02]).word 0x0000) = (0x0001, 0x0000) := by decide

/-- Section 2.10: a trailing byte of an image is ignored. -/
theorem test_load_odd : (State.reset.load [0x30, 0x00, 0x12, 0x34, 0x56]).mem = [(0x3000, 0x1234)] := by decide

/-- E6: the later image stands where two overlap. -/
theorem test_load_overlap :
    (State.reset.loadAll [[0x30, 0x00, 0x11, 0x11, 0x22, 0x22, 0x33, 0x33], [0x30, 0x01, 0xAA, 0xAA, 0xBB, 0xBB]]).mem =
      [(0x3000, 0x1111), (0x3001, 0xAAAA), (0x3002, 0xBBBB)] := by decide

/-- E1 and section 2.1: the extremes of each width. -/
theorem test_sext :
    sext5 0b10000 = 0xFFF0 ∧ sext5 0b01111 = 0x000F ∧ sext6 0b100000 = 0xFFE0 ∧ sext6 0b011111 = 0x001F ∧
      sext9 0x100 = 0xFF00 ∧ sext9 0x0FF = 0x00FF ∧ sext11 0x400 = 0xFC00 ∧ sext11 0x3FF = 0x03FF := by decide

/-! ## Witnesses: for each statement with hypotheses, concrete values that meet them, clause by clause, at boundary values -/

theorem witness_DecodeOfEncode : (Instr.trap 0x26).wf = true ∧ (Instr.trap 0x1F).wf = true ∧ Instr.halt.wf = true := by
  decide

/-- Each row's mask is met by a word with every free bit set. -/
theorem witness_DecodeFollowsTheOpcodeTable :
    0x1FDF#16 &&& 0xF020 = 0x1000 ∧ 0x1FFF#16 &&& 0xF020 = 0x1020 ∧ 0x5FDF#16 &&& 0xF020 = 0x5000 ∧
    0x5FFF#16 &&& 0xF020 = 0x5020 ∧ 0x9FFF#16 &&& 0xF000 = 0x9000 ∧ 0x0FFF#16 &&& 0xF000 = 0x0000 ∧
    0xCFFF#16 &&& 0xF000 = 0xC000 ∧ 0x4FFF#16 &&& 0xF800 = 0x4800 ∧ 0x47FF#16 &&& 0xF800 = 0x4000 ∧
    0x2FFF#16 &&& 0xF000 = 0x2000 ∧ 0xAFFF#16 &&& 0xF000 = 0xA000 ∧ 0x6FFF#16 &&& 0xF000 = 0x6000 ∧
    0xEFFF#16 &&& 0xF000 = 0xE000 ∧ 0x3FFF#16 &&& 0xF000 = 0x3000 ∧ 0xBFFF#16 &&& 0xF000 = 0xB000 ∧
    0x7FFF#16 &&& 0xF000 = 0x7000 ∧ 0xFF20#16 &&& 0xF0FF = 0xF020 ∧ 0xFF21#16 &&& 0xF0FF = 0xF021 ∧
    0xFF22#16 &&& 0xF0FF = 0xF022 ∧ 0xFF23#16 &&& 0xF0FF = 0xF023 ∧ 0xFF24#16 &&& 0xF0FF = 0xF024 ∧
    0xFF25#16 &&& 0xF0FF = 0xF025 ∧ 0x8FFF#16 &&& 0xF000 = 0x8000 ∧ 0xDFFF#16 &&& 0xF000 = 0xD000 := by decide

theorem witness_DecodeFollowsTheOpcodeTable_trap :
    0xF01F#16 &&& 0xF000 = 0xF000 ∧ (0xF01F#16).toNat % 256 < 0x20 ∧
    0xF026#16 &&& 0xF000 = 0xF000 ∧ 0x25 < (0xF026#16).toNat % 256 := by decide

theorem witness_RegistersAreEight : Reg.r0 ≠ Reg.r7 := by decide

theorem witness_SetCC :
    ((State.reset.setReg .r0 0x8000).reg .r0).getLsbD 15 = true ∧
    (State.reset.reg .r0).getLsbD 15 = false ∧ State.reset.reg .r0 = 0 ∧
    ((State.reset.setReg .r0 0x7FFF).reg .r0).getLsbD 15 = false ∧ (State.reset.setReg .r0 0x7FFF).reg .r0 ≠ 0 := by
  decide

theorem witness_ReadPort_byte : (withInput [.byte 0xFF]).kbdPoll = (some 0xFF, withInput []) := by decide

theorem witness_ReadPort_none :
    (withInput [.noByte]).kbdPoll = (none, withInput []) ∧ (withInput [.ended]).kbdPoll = (none, withInput [.ended]) := by
  decide

theorem witness_ReadPort_plain : 0xFE02#16 ≠ Config.KBSR_ADDR ∧ 0xFDFF#16 ≠ Config.KBSR_ADDR := by decide

theorem witness_WritePort : 0x0000#16 ≠ 0xFFFF#16 := by decide

theorem witness_MemoriesThatReadAlike :
    Memory.wf [(0, 1), (65535, 2)] = true ∧
      ∀ a, readWord [(0, 1), (65535, 2)] a = readWord [(0, 1), (65535, 2)] a := ⟨by decide, fun _ => rfl⟩

theorem witness_PollsAndBlockingReads :
    (withInput [.byte 0x00, .ended]).input = .byte 0x00 :: [.ended] ∧ (withInput [.noByte]).input = .noByte :: [] ∧
      (withInput [.ended]).input = .ended :: [] := by decide

theorem witness_Branch_taken :
    (0b100#3).getLsbD 2 = true ∧ (State.reset.setCond Config.FL_NEG).cond.getLsbD 2 = true := by decide

theorem witness_Branch_not_taken :
    ∀ k < 3, (0b011#3).getLsbD k = true → (State.reset.setCond Config.FL_NEG).cond.getLsbD k = false := by decide

theorem witness_EightBranchMasks :
    legalCond (State.reset.setCond Config.FL_NEG).cond ∧ legalCond State.reset.cond ∧
      legalCond (State.reset.setCond Config.FL_POS).cond ∧ State.reset.cond = Config.FL_ZRO :=
  ⟨.inr (.inr rfl), .inr (.inl rfl), .inl rfl, rfl⟩

theorem witness_Jsrr : Reg.r6 ≠ Reg.r7 ∧ Reg.r7 = Reg.r7 := by decide

theorem witness_Ld_plain :
    State.reset.pc + (0xFF#9).signExtend 16 ≠ Config.KBSR_ADDR ∧
      (State.reset.setReg .r1 0xFE02).reg .r1 + (0#6).signExtend 16 ≠ Config.KBSR_ADDR := by decide

/-- The pointer of LDI, and of STI, read at a plain address: it may be the status word's address or not. -/
theorem witness_Ldi :
    (State.reset.setWord 0x3002 0xFE00).memRead ((State.reset.setWord 0x3002 0xFE00).pc + (2#9).signExtend 16) =
      (0xFE00, State.reset.setWord 0x3002 0xFE00) ∧
    (State.reset.setWord 0x3002 0xFE02).memRead ((State.reset.setWord 0x3002 0xFE02).pc + (2#9).signExtend 16) =
      (0xFE02, State.reset.setWord 0x3002 0xFE02) ∧ 0xFE02#16 ≠ Config.KBSR_ADDR := by decide

/-- The pointer read at the status word's own address. -/
theorem witness_Ldi_polls :
    ((withInput [.noByte]).setPc 0xFE00).memRead (((withInput [.noByte]).setPc 0xFE00).pc + (0#9).signExtend 16) =
      (0x0000, (withInput []).setPc 0xFE00) := by decide

/-- Each store form over the next instruction. -/
theorem witness_Stores :
    State.reset.pc + (0#9).signExtend 16 = State.reset.pc ∧ State.reset.pc ≠ Config.KBSR_ADDR ∧
    (State.reset.setReg .r1 0x3000).reg .r1 + (0#6).signExtend 16 = (State.reset.setReg .r1 0x3000).pc ∧
    (State.reset.setWord 0x3001 0x3000).memRead ((State.reset.setWord 0x3001 0x3000).pc + (1#9).signExtend 16) =
      (0x3000, State.reset.setWord 0x3001 0x3000) := by decide

/-- GETC and IN: a byte is handed over (0x00 and 0xFF), or none is. -/
theorem witness_Getc :
    (withInput [.byte 0x00]).charIn = (some 0x00, withInput []) ∧
    (withInput [.byte 0xFF]).charIn = (some 0xFF, withInput []) ∧
    (withInput [.noByte]).charIn = (none, withInput []) := by decide

theorem witness_In :
    (withInput [.byte 0xFF]).charIn = (some 0xFF, withInput []) ∧
    (withInput [.ended]).charIn = (none, withInput [.ended]) := by decide

/-- Two words and the terminator, the pointer wrapping past 0xFFFF. -/
def wrappingString : State :=
  ((State.reset.setReg .r0 0xFFFF).setWord 0xFFFF 0x0058).setWord 0x0000 0x4159

theorem witness_Puts :
    PlainString wrappingString (wrappingString.reg .r0) [0x0058, 0x4159] ∧
      [0x0058#16, 0x4159].length < Config.STRING_BURST := by
  refine ⟨⟨?_, by decide, by decide⟩, by decide⟩
  intro k h
  match k with
  | 0 => exact ⟨rfl, by simp⟩
  | 1 => exact ⟨rfl, by simp⟩
  | n + 2 => exact absurd h (by simp)

theorem witness_Puts_empty : PlainString State.reset (State.reset.reg .r0) [] :=
  ⟨fun _ h => absurd h (by simp), by decide, by decide⟩

/-- A string that starts at the status word: a poll gives its first word, and 0xFE01 its last. -/
theorem witness_StringServicesEnd :
    ∃ u, StringRun oneCharacter 2 (((withInput [.byte 0x41]).setReg .r0 0xFE00).reg .r0)
        ((withInput [.byte 0x41]).setReg .r0 0xFE00).enterTrap u ∧ 2 ≤ Config.STRING_BURST :=
  ⟨_, .go 1 _ 0x8000 _ _ _ (Prod.ext (by decide) rfl) (by decide) (.stop _ _ _ (Prod.ext (by decide) rfl)), by decide⟩

theorem witness_StringServicesEnd_putsp :
    ∃ u, StringRun upToTwoCharacters 3 (wrappingString.reg .r0) wrappingString.enterTrap u ∧ 3 ≤ Config.STRING_BURST :=
  ⟨_, .go 2 _ 0x0058 _ _ _ (Prod.ext (by decide) rfl) (by decide)
    (.go 1 _ 0x4159 _ _ _ (Prod.ext (by decide) rfl) (by decide) (.stop _ _ _ (Prod.ext (by decide) rfl))), by decide⟩

/-! A state whose string loop does not end in 65536 words: every word is 1, and every poll finds the byte 0x41. -/

/-- Every word from address `lo` on, `n` of them, is 1. -/
def ones : Nat → Nat → Memory
  | _, 0 => []
  | lo, n + 1 => (lo, 1) :: ones (lo + 1) n

theorem readWord_ones (a : Word) (n lo : Nat) (h1 : lo ≤ a.toNat) (h2 : a.toNat < lo + n) :
    readWord (ones lo n) a = 1 := by
  induction n generalizing lo with
  | zero => omega
  | succ n ih =>
    rw [ones, readWord]
    split
    · rfl
    · exact ih _ (by omega) (by omega)

/-- The state. -/
def endless : State :=
  { State.reset with mem := ones 0 65536, input := List.replicate 65536 (.byte 0x41) }

/-- No word is zero, and at least `n` polls will find the byte 0x41. -/
def NoZero (n : Nat) (s : State) : Prop :=
  (∀ a, s.word a ≠ 0) ∧ ∃ k, n ≤ k ∧ s.input = List.replicate k (.byte 0x41)

theorem noZero_memRead {n : Nat} {s s' : State} {a w : Word} (h : NoZero (n + 1) s) (hr : s.memRead a = (w, s')) :
    w ≠ 0 ∧ NoZero n s' := by
  obtain ⟨hw, k, hk, hi⟩ := h
  by_cases ha : a = Config.KBSR_ADDR
  · subst ha
    obtain ⟨k, rfl⟩ : ∃ j, k = j + 1 := ⟨k - 1, by omega⟩
    have hd : s.draw = (.byte 0x41, { s with input := List.replicate k (.byte 0x41) }) := by
      unfold State.draw
      rw [hi]
      rfl
    have hp : s.kbdPoll = (some 0x41, { s with input := List.replicate k (.byte 0x41) }) := by
      simp only [State.kbdPoll, hd]
    rw [State.memRead_kbsr, hp] at hr
    have hword : ∀ b, (latchPoll (some 0x41, { s with input := List.replicate k (.byte 0x41) })).word b ≠ 0 := by
      intro b
      by_cases h2 : b = Config.KBDR_ADDR
      · rw [h2]
        exact (State.setWord_word_same _ _ _).trans_ne (by decide)
      · refine (State.setWord_word_of_ne _ _ h2).trans_ne ?_
        by_cases h1 : b = Config.KBSR_ADDR
        · rw [h1]
          exact (State.setWord_word_same _ _ _).trans_ne (by decide)
        · exact (State.setWord_word_of_ne _ _ h1).trans_ne (hw b)
    injection hr with h1 h2
    subst h1 h2
    exact ⟨hword _, hword, k, by omega, rfl⟩
  · rw [s.memRead_of_ne ha] at hr
    injection hr with h1 h2
    subst h1 h2
    exact ⟨hw a, hw, k, by omega, hi⟩

theorem noZero_no_run {bytes : Word → List Byte} {n : Nat} {a : Word} {s u : State}
    (hr : StringRun bytes n a s u) : ¬ NoZero n s := by
  induction hr with
  | stop a s s' h => exact fun hz => (noZero_memRead hz h).1 rfl
  | go n a w s s' t h _ _ ih => exact fun hz => ih (noZero_memRead hz h).2

theorem witness_EndlessStrings (bytes : Word → List Byte) :
    ∀ n ≤ Config.STRING_BURST, ∀ u, ¬ StringRun bytes n (endless.reg .r0) endless.enterTrap u := by
  intro n hn u hr
  refine noZero_no_run hr ⟨fun a => ?_, 65536, hn, rfl⟩
  show readWord (ones 0 65536) a ≠ 0
  rw [readWord_ones a 65536 0 (Nat.zero_le _) (by have := a.isLt; omega)]
  decide

/-- A PUTS and a PUTSP in progress whose loop ends, and, in the same words, ones whose loop does not end in 65536 words. -/
theorem witness_StringServicesGoOn :
    (wrappingString.setBusy (some (.puts 0xFFFF))).halted = false ∧
    (∃ u, StringRun oneCharacter 3 0xFFFF (wrappingString.setBusy (some (.puts 0xFFFF))) u) ∧
    (∃ u, StringRun upToTwoCharacters 3 0xFFFF (wrappingString.setBusy (some (.putsp 0xFFFF))) u) ∧
    3 ≤ Config.STRING_BURST :=
  ⟨rfl,
    ⟨_, .go 2 _ 0x0058 _ _ _ (Prod.ext (by decide) rfl) (by decide)
      (.go 1 _ 0x4159 _ _ _ (Prod.ext (by decide) rfl) (by decide) (.stop _ _ _ (Prod.ext (by decide) rfl)))⟩,
    ⟨_, .go 2 _ 0x0058 _ _ _ (Prod.ext (by decide) rfl) (by decide)
      (.go 1 _ 0x4159 _ _ _ (Prod.ext (by decide) rfl) (by decide) (.stop _ _ _ (Prod.ext (by decide) rfl)))⟩,
    by decide⟩

theorem witness_StringServicesGoOn_endless (bytes : Word → List Byte) (a : Word) (b : Service) :
    (endless.setBusy (some b)).halted = false ∧ (endless.setBusy (some b)).busy = some b ∧
      ∀ n ≤ Config.STRING_BURST, ∀ u, ¬ StringRun bytes n a (endless.setBusy (some b)) u := by
  refine ⟨rfl, rfl, fun n hn u hr => noZero_no_run hr ⟨fun a => ?_, 65536, hn, rfl⟩⟩
  show readWord (ones 0 65536) a ≠ 0
  rw [readWord_ones a 65536 0 (Nat.zero_le _) (by have := a.isLt; omega)]
  decide

/-- A string in progress is gone on with at its own word, and nothing is fetched: from 0x4001, "B" and not "AB". -/
theorem test_puts_goes_on :
    (after ((((State.reset.setWord 0x4000 0x0041).setWord 0x4001 0x0042).setBusy (some (.puts 0x4001))))).map
        (fun t => (t.output, t.pc, t.busy)) = some ([0x42], 0x3000, none) := by decide

theorem witness_StepRuns :
    State.reset.halted = false ∧ State.reset.busy = none ∧ State.reset.memRead State.reset.pc = (0x0000, State.reset) ∧
    (Instr.br 0 0).wf = true ∧ State.reset.pc ≠ Config.KBSR_ADDR ∧ decode (State.reset.word State.reset.pc) = .br 0 0 ∧
    (startAt 0xFE00).pc = Config.KBSR_ADDR := by decide

/-- A GETC, and an IN, that wait; the next answer is a byte, or none. -/
theorem witness_WaitingReads :
    ((withInput [.byte 0x00]).setBusy (some .getc)).halted = false ∧
    ((withInput [.byte 0x00]).setBusy (some .getc)).charIn = (some 0x00, (withInput []).setBusy (some .getc)) ∧
    ((withInput [.byte 0xFF]).setBusy (some .inp)).charIn = (some 0xFF, (withInput []).setBusy (some .inp)) ∧
    ((withInput [.noByte]).setBusy (some .getc)).charIn = (none, (withInput []).setBusy (some .getc)) ∧
    ((withInput [.noByte]).setBusy (some .inp)).charIn = (none, (withInput []).setBusy (some .inp)) ∧
    ((withInput [.noByte]).setBusy (some .inp)).busy = some .inp := by decide

theorem witness_EndedInput :
    ((withInput [.ended]).setBusy (some .getc)).halted = false ∧
    ((withInput [.ended]).setBusy (some .getc)).input = .ended :: [] ∧
    ((withInput [.ended]).setBusy (some .inp)).input = .ended :: [] ∧
    ((withInput [.ended]).setBusy (some .getc)).busy = some .getc ∧
    ((withInput [.ended]).setBusy (some .inp)).busy = some .inp := by decide

theorem witness_HaltedBlock : State.reset.setHalted.halted = true := by decide

theorem witness_NothingFaults : State.reset.halted = false := by decide

/-! The whole-machine statements: a step of each kind their clauses name. -/

/-- A step of an instruction of the flag-writing set that ends: ADD R0,R0,#-1. -/
theorem witness_Step_writes_flags : ∃ t, step (State.reset.withFetchWord 16 0x103F) = .next t ∧
    flagDest (State.reset.withFetchWord 16 0x103F).current = some .r0 ∧ t.busy = none ∧
    savesPc (State.reset.withFetchWord 16 0x103F).current = false ∧
    (State.reset.withFetchWord 16 0x103F).busy = none := ⟨_, rfl, by decide, rfl, by decide, rfl⟩

/-- A step outside the flag-writing set that saves the PC: JSR #0. -/
theorem witness_Step_saves_pc : ∃ t, step (State.reset.withFetchWord 16 0x4800) = .next t ∧
    flagDest (State.reset.withFetchWord 16 0x4800).current = none ∧
    savesPc (State.reset.withFetchWord 16 0x4800).current = true ∧
    (State.reset.withFetchWord 16 0x4800).busy = none := ⟨_, rfl, by decide, by decide, rfl⟩

/-- A step that leaves a read waiting: GETC with no byte. -/
theorem witness_Step_waits :
    ∃ t, step ((withInput [.noByte]).withFetchWord 16 0xF020) = .next t ∧ t.busy ≠ none ∧
      ((withInput [.noByte]).withFetchWord 16 0xF020).busy = none := ⟨_, rfl, by decide, rfl⟩

/-- A step that goes on with a waiting read and ends it. -/
theorem witness_Step_goes_on :
    ∃ t, step ((withInput [.byte 0x61]).setBusy (some .getc)) = .next t ∧ t.busy = none ∧
      ((withInput [.byte 0x61]).setBusy (some .getc)).busy ≠ none ∧
      flagDest ((withInput [.byte 0x61]).setBusy (some .getc)).current = some .r0 := ⟨_, rfl, rfl, by decide, by decide⟩

/-- A store, and an address beside the stored one that is no device word: ST R0,#1 and address 0x3003. -/
theorem witness_MemoryChanges :
    ∃ t, step (State.reset.withFetchWord 16 0x3001) = .next t ∧
      storeAddress (State.reset.withFetchWord 16 0x3001).current (State.reset.withFetchWord 16 0x3001).afterFetch =
        some 0x3002 ∧
      (0x3003 : Word) ≠ 0x3002 ∧ (0x3003 : Word) ≠ Config.KBSR_ADDR ∧ (0x3003 : Word) ≠ Config.KBDR_ADDR :=
  ⟨_, rfl, by decide, by decide, by decide, by decide⟩

/-- A step that sets the halt latch. -/
theorem witness_RunEnds :
    ∃ t, step (State.reset.withFetchWord 16 0xF025) = .next t ∧ t.halted = true ∧
      (State.reset.withFetchWord 16 0xF025).busy = none ∧ decode (State.reset.withFetchWord 16 0xF025).fetched = .halt :=
  ⟨_, rfl, rfl, rfl, by decide⟩

/-- A step that writes output: OUT. -/
theorem witness_OutputOnlyGrows : ∃ t, step (State.reset.withFetchWord 16 0xF021) = .next t ∧ t.output = [0x00] :=
  ⟨_, rfl, by decide⟩

theorem witness_OnlyBranchesReadCond :
    (∀ mask off, (State.reset.withFetchWord 16 0x103F).current ≠ .br mask off) ∧
      (State.reset.withFetchWord 16 0x103F).halted = false := by
  refine ⟨fun mask off => ?_, rfl⟩
  rw [show (State.reset.withFetchWord 16 0x103F).current = .addImm .r0 .r0 0b11111 by decide]
  exact Instr.noConfusion

/-- A step that takes an answer. -/
theorem witness_StepTakesAtMostOneAnswer :
    ∃ t, step ((withInput [.byte 0x61, .byte 0x62]).withFetchWord 16 0xF020) = .next t ∧ t.input = [.byte 0x62] :=
  ⟨_, rfl, by decide⟩

theorem witness_StepKeepsTheInvariant :
    (State.reset.withFetchWord 16 0xF025).Inv ∧ ∃ t, step (State.reset.withFetchWord 16 0xF025) = .next t :=
  ⟨⟨by decide, .inr (.inl rfl), by decide⟩, _, rfl⟩

end Sys2Proof.Tests
end

section
/-! SUPPORT. What an instruction and a step can do, said once: the answers of the environment, the fetch, each service, each
arm of the dispatch engine, and the inversion of a step. -/

namespace Sys2Proof.Machine

variable (s : State)

/-! ## Asking the environment -/

@[simp] theorem State.draw_regs : s.draw.2.regs = s.regs := by rw [State.draw_frame]
@[simp] theorem State.draw_reg (r : Reg) : s.draw.2.reg r = s.reg r := by rw [State.draw_frame]; rfl
@[simp] theorem State.draw_pc : s.draw.2.pc = s.pc := by rw [State.draw_frame]
@[simp] theorem State.draw_cond : s.draw.2.cond = s.cond := by rw [State.draw_frame]
@[simp] theorem State.draw_mem : s.draw.2.mem = s.mem := by rw [State.draw_frame]
@[simp] theorem State.draw_halted : s.draw.2.halted = s.halted := by rw [State.draw_frame]
@[simp] theorem State.draw_output : s.draw.2.output = s.output := by rw [State.draw_frame]
@[simp] theorem State.draw_busy : s.draw.2.busy = s.busy := by rw [State.draw_frame]

/-- A blocking read is its answer and what asking leaves. -/
theorem State.charIn_eq : s.charIn = (s.charIn.1, s.draw.2) := Prod.ext rfl s.charIn_snd

/-! ## The fetch -/

/-- The fetch moves `pc` and may poll: nothing else changes (R131). -/
theorem State.afterFetch_frame :
    s.afterFetch =
      { s with pc := s.pc + 1, mem := s.afterFetch.mem, input := s.afterFetch.input, draws := s.afterFetch.draws } := by
  show ((s.memRead s.pc).2.setPc (s.pc + 1)) = _
  rw [State.memRead_frame]
  rfl

@[simp] theorem State.afterFetch_regs : s.afterFetch.regs = s.regs := by rw [State.afterFetch_frame]
@[simp] theorem State.afterFetch_reg (r : Reg) : s.afterFetch.reg r = s.reg r := by rw [State.afterFetch_frame]; rfl
@[simp] theorem State.afterFetch_pc : s.afterFetch.pc = s.pc + 1 := by rw [State.afterFetch_frame]
@[simp] theorem State.afterFetch_cond : s.afterFetch.cond = s.cond := by rw [State.afterFetch_frame]
@[simp] theorem State.afterFetch_halted : s.afterFetch.halted = s.halted := by rw [State.afterFetch_frame]
@[simp] theorem State.afterFetch_output : s.afterFetch.output = s.output := by rw [State.afterFetch_frame]
@[simp] theorem State.afterFetch_busy : s.afterFetch.busy = s.busy := by rw [State.afterFetch_frame]

/-- The fetch keeps the canonical form of memory. -/
theorem State.afterFetch_mem_wf (h : Memory.wf s.mem = true) : Memory.wf s.afterFetch.mem = true :=
  s.memRead_mem_wf s.pc h

/-! ## Loads -/

@[simp] theorem State.loadFrom_pc (dr : Reg) (ea : Word) : (s.loadFrom dr ea).pc = s.pc := by simp [State.loadFrom]
@[simp] theorem State.loadFrom_halted (dr : Reg) (ea : Word) : (s.loadFrom dr ea).halted = s.halted := by
  simp [State.loadFrom]
@[simp] theorem State.loadFrom_busy (dr : Reg) (ea : Word) : (s.loadFrom dr ea).busy = s.busy := by
  simp [State.loadFrom]

/-- A load keeps the canonical form of memory: only its read touches memory. -/
theorem State.loadFrom_mem_wf (dr : Reg) (ea : Word) (h : Memory.wf s.mem = true) :
    Memory.wf (s.loadFrom dr ea).mem = true :=
  s.memRead_mem_wf ea h

/-! ## GETC and IN from their read on -/

variable {s} in
/-- GETC with a byte: R0 and its flag are written, and the service ends (R234). -/
theorem State.getcRead_of_byte {c : Byte} (h : s.charIn.1 = some c) :
    s.getcRead = (s.draw.2.setRegCC .r0 (zext8 c)).setBusy none := by
  rw [State.getcRead, s.charIn_eq, h]

variable {s} in
/-- GETC without a byte goes on waiting (R275). -/
theorem State.getcRead_of_none (h : s.charIn.1 = none) : s.getcRead = s.draw.2.setBusy (some .getc) := by
  rw [State.getcRead, s.charIn_eq, h]

variable {s} in
/-- IN with a byte: it is echoed, R0 and its flag are written, and the service ends (R241). -/
theorem State.inRead_of_byte {c : Byte} (h : s.charIn.1 = some c) :
    s.inRead = ((s.draw.2.charOut c).setRegCC .r0 (zext8 c)).setBusy none := by
  rw [State.inRead, s.charIn_eq, h]

variable {s} in
/-- IN without a byte goes on waiting (R275). -/
theorem State.inRead_of_none (h : s.charIn.1 = none) : s.inRead = s.draw.2.setBusy (some .inp) := by
  rw [State.inRead, s.charIn_eq, h]

/-- Whatever the environment answers, GETC leaves `pc`, memory and the halt latch alone. -/
theorem State.getcRead_frame : s.getcRead.pc = s.pc ∧ s.getcRead.mem = s.mem ∧ s.getcRead.halted = s.halted := by
  cases h : s.charIn.1 with
  | none => simp [State.getcRead_of_none h]
  | some c => simp [State.getcRead_of_byte h]

/-- Whatever the environment answers, IN leaves `pc`, memory and the halt latch alone. -/
theorem State.inRead_frame : s.inRead.pc = s.pc ∧ s.inRead.mem = s.mem ∧ s.inRead.halted = s.halted := by
  cases h : s.charIn.1 with
  | none => simp [State.inRead_of_none h]
  | some c => simp [State.inRead_of_byte h]

@[simp] theorem State.getcRead_pc : s.getcRead.pc = s.pc := by simp [s.getcRead_frame]
@[simp] theorem State.getcRead_mem : s.getcRead.mem = s.mem := by simp [s.getcRead_frame]
@[simp] theorem State.getcRead_halted : s.getcRead.halted = s.halted := by simp [s.getcRead_frame]
@[simp] theorem State.inRead_pc : s.inRead.pc = s.pc := by simp [s.inRead_frame]
@[simp] theorem State.inRead_mem : s.inRead.mem = s.mem := by simp [s.inRead_frame]
@[simp] theorem State.inRead_halted : s.inRead.halted = s.halted := by simp [s.inRead_frame]

/-! ## PUTS and PUTSP from a word on -/

@[simp] theorem State.putsFrom_regs (a : Word) : (s.putsFrom a).regs = s.regs := by
  simp [State.putsFrom, stringLoop_frame]
@[simp] theorem State.putsFrom_pc (a : Word) : (s.putsFrom a).pc = s.pc := by
  simp [State.putsFrom, stringLoop_frame]
@[simp] theorem State.putsFrom_cond (a : Word) : (s.putsFrom a).cond = s.cond := by
  simp [State.putsFrom, stringLoop_frame]
@[simp] theorem State.putsFrom_halted (a : Word) : (s.putsFrom a).halted = s.halted := by
  simp [State.putsFrom, stringLoop_frame]
@[simp] theorem State.putspFrom_regs (a : Word) : (s.putspFrom a).regs = s.regs := by
  simp [State.putspFrom, stringLoop_frame]
@[simp] theorem State.putspFrom_pc (a : Word) : (s.putspFrom a).pc = s.pc := by
  simp [State.putspFrom, stringLoop_frame]
@[simp] theorem State.putspFrom_cond (a : Word) : (s.putspFrom a).cond = s.cond := by
  simp [State.putspFrom, stringLoop_frame]
@[simp] theorem State.putspFrom_halted (a : Word) : (s.putspFrom a).halted = s.halted := by
  simp [State.putspFrom, stringLoop_frame]

/-! ## The arms of the dispatch engine -/

@[simp] theorem exec_addReg (dr sr1 sr2 : Reg) :
    exec (.addReg dr sr1 sr2) s = .next (s.setRegCC dr (s.reg sr1 + s.reg sr2)) := rfl
@[simp] theorem exec_addImm (dr sr1 : Reg) (imm5 : BitVec 5) :
    exec (.addImm dr sr1 imm5) s = .next (s.setRegCC dr (s.reg sr1 + sext5 imm5)) := rfl
@[simp] theorem exec_andReg (dr sr1 sr2 : Reg) :
    exec (.andReg dr sr1 sr2) s = .next (s.setRegCC dr (s.reg sr1 &&& s.reg sr2)) := rfl
@[simp] theorem exec_andImm (dr sr1 : Reg) (imm5 : BitVec 5) :
    exec (.andImm dr sr1 imm5) s = .next (s.setRegCC dr (s.reg sr1 &&& sext5 imm5)) := rfl
@[simp] theorem exec_not (dr sr : Reg) : exec (.not dr sr) s = .next (s.setRegCC dr (~~~(s.reg sr))) := rfl
@[simp] theorem exec_br (mask : BitVec 3) (off : BitVec 9) :
    exec (.br mask off) s = .next (if branchTaken mask s.cond then s.setPc (s.pcRel9 off) else s) := rfl
@[simp] theorem exec_jmp (base : Reg) : exec (.jmp base) s = .next (s.setPc (s.reg base)) := rfl
@[simp] theorem exec_jsr (off : BitVec 11) :
    exec (.jsr off) s = .next ((s.setReg .r7 s.pc).setPc (s.pcRel11 off)) := rfl
@[simp] theorem exec_jsrr (base : Reg) :
    exec (.jsrr base) s = .next ((s.setReg .r7 s.pc).setPc ((s.setReg .r7 s.pc).reg base)) := rfl
@[simp] theorem exec_ld (dr : Reg) (off : BitVec 9) : exec (.ld dr off) s = .next (s.loadFrom dr (s.pcRel9 off)) := rfl
@[simp] theorem exec_ldi (dr : Reg) (off : BitVec 9) :
    exec (.ldi dr off) s = .next ((s.memRead (s.pcRel9 off)).2.loadFrom dr (s.memRead (s.pcRel9 off)).1) := rfl
@[simp] theorem exec_ldr (dr base : Reg) (off : BitVec 6) :
    exec (.ldr dr base off) s = .next (s.loadFrom dr (s.baseOff base off)) := rfl
@[simp] theorem exec_lea (dr : Reg) (off : BitVec 9) : exec (.lea dr off) s = .next (s.setRegCC dr (s.pcRel9 off)) := rfl
@[simp] theorem exec_st (sr : Reg) (off : BitVec 9) :
    exec (.st sr off) s = .next (s.memWrite (s.pcRel9 off) (s.reg sr)) := rfl
@[simp] theorem exec_sti (sr : Reg) (off : BitVec 9) :
    exec (.sti sr off) s =
      .next ((s.memRead (s.pcRel9 off)).2.memWrite (s.memRead (s.pcRel9 off)).1 (s.reg sr)) := rfl
@[simp] theorem exec_str (sr base : Reg) (off : BitVec 6) :
    exec (.str sr base off) s = .next (s.memWrite (s.baseOff base off) (s.reg sr)) := rfl
@[simp] theorem exec_getc : exec .getc s = .next s.enterTrap.getcRead := rfl
@[simp] theorem exec_out : exec .out s = .next (s.enterTrap.charOut (lowByte (s.enterTrap.reg .r0))) := rfl
@[simp] theorem exec_puts : exec .puts s = .next (s.enterTrap.putsFrom (s.enterTrap.reg .r0)) := rfl
@[simp] theorem exec_inp : exec .inp s = .next (s.enterTrap.charsOut Config.IN_PROMPT).inRead := rfl
@[simp] theorem exec_putsp : exec .putsp s = .next (s.enterTrap.putspFrom (s.enterTrap.reg .r0)) := rfl
@[simp] theorem exec_halt : exec .halt s = .next (s.enterTrap.charsOut Config.HALT_BANNER).setHalted := rfl
@[simp] theorem exec_trap (v : BitVec 8) : exec (.trap v) s = .next s.enterTrap := rfl
@[simp] theorem exec_res8 : exec .res8 s = .next s := rfl
@[simp] theorem exec_res13 : exec .res13 s = .next s := rfl

variable {s} {t : State}

/-- BR does nothing, or it jumps, by its mask and COND (R171). -/
theorem exec_br_cases {mask : BitVec 3} {off : BitVec 9} (h : exec (.br mask off) s = .next t) :
    (mask &&& s.cond.extractLsb' 0 3 = 0 ∧ t = s) ∨
      (mask &&& s.cond.extractLsb' 0 3 ≠ 0 ∧ t = s.setPc (s.pcRel9 off)) := by
  obtain rfl := Host.Outcome.next.inj h
  by_cases hm : mask &&& s.cond.extractLsb' 0 3 = 0
  · exact .inl ⟨hm, if_neg (by simpa [branchTaken] using hm)⟩
  · exact .inr ⟨hm, if_pos (by simpa [branchTaken] using hm)⟩

/-! ## A step -/

/-- All a step that answers can do: it goes on with the service in progress, or it fetches and runs an instruction; and the halt
latch was clear (R134, R139). -/
theorem step_cases (h : step s = .next t) :
    s.halted = false ∧
      ((∃ service, s.busy = some service ∧ t = resume service s) ∨
        (s.busy = none ∧ exec (decode s.fetched) s.afterFetch = .next t)) := by
  unfold step at h
  split at h
  · cases h
  · next hh =>
    refine ⟨by simpa using hh, ?_⟩
    split at h
    · next service hb => exact .inl ⟨service, hb, (Host.Outcome.next.inj h).symm⟩
    · next hb => exact .inr ⟨hb, h⟩

/-- With no service in progress a step works on the instruction it fetches. -/
theorem State.current_of_idle (h : s.busy = none) : s.current = decode s.fetched := by
  simp [State.current, h]

/-! ## `pc` -/

/-- An instruction leaves `pc` as the table of R26 says. -/
theorem exec_pc {i : Instr} (h : exec i s = .next t) : t.pc = nextPc i s := by
  cases i with
  | br mask off =>
    obtain ⟨hm, rfl⟩ | ⟨hm, rfl⟩ := exec_br_cases h
    · exact (if_pos hm).symm
    · exact (if_neg hm).symm
  | jsrr base =>
    cases h
    by_cases hb : base = .r7
    · simp [nextPc, hb]
    · simp [nextPc, hb, State.setReg_reg_of_ne]
  | _ => cases h; simp [nextPc, State.pcRel11, sext11]

/-- Going on with a service leaves `pc` alone. -/
theorem resume_pc (service : Service) : (resume service s).pc = s.pc := by
  cases service <;> simp [resume]

/-- The poll of a fetch has no part in where an instruction leaves `pc`. -/
theorem nextPc_afterFetch (i : Instr) : nextPc i s.afterFetch = nextPc i { s with pc := s.pc + 1 } := by
  rw [State.afterFetch_frame]
  cases i <;> rfl

/-! ## The halt latch -/

/-- HALT alone touches the halt latch (R30, R247). -/
theorem exec_halted {i : Instr} (h : exec i s = .next t) (hi : i ≠ .halt) : t.halted = s.halted := by
  cases i with
  | halt => exact absurd rfl hi
  | br mask off => obtain ⟨-, rfl⟩ | ⟨-, rfl⟩ := exec_br_cases h <;> rfl
  | _ => cases h; simp

/-- Going on with a service leaves the halt latch alone. -/
theorem resume_halted (service : Service) : (resume service s).halted = s.halted := by
  cases service <;> simp [resume]

/-- A step that leaves the block halted leaves no service in progress. -/
theorem step_halted_idle (h : step s = .next t) (ht : t.halted = true) : t.busy = none := by
  obtain ⟨hh, ⟨service, -, rfl⟩ | ⟨hb, he⟩⟩ := step_cases h
  · rw [resume_halted, hh] at ht
    cases ht
  · by_cases hi : decode s.fetched = .halt
    · rw [hi] at he
      cases he
      simpa using hb
    · rw [exec_halted he hi, State.afterFetch_halted, hh] at ht
      cases ht

/-! ## Canonical memory -/

/-- Every instruction keeps the canonical form of memory (log entry 3). -/
theorem exec_mem_wf {i : Instr} (h : exec i s = .next t) (hs : Memory.wf s.mem = true) : Memory.wf t.mem = true := by
  cases i with
  | br mask off => obtain ⟨-, rfl⟩ | ⟨-, rfl⟩ := exec_br_cases h <;> exact hs
  | ld | ldr => cases h; exact s.loadFrom_mem_wf _ _ hs
  | ldi => cases h; exact State.loadFrom_mem_wf _ _ _ (s.memRead_mem_wf _ hs)
  | st | str => cases h; exact writeWord_wf _ _ hs
  | sti => cases h; exact writeWord_wf _ _ (s.memRead_mem_wf _ hs)
  | puts | putsp => cases h; exact stringLoop_mem_wf _ _ _ _ _ hs
  | _ => cases h; simpa using hs

/-- Going on with a service keeps the canonical form of memory. -/
theorem resume_mem_wf (service : Service) (hs : Memory.wf s.mem = true) : Memory.wf (resume service s).mem = true := by
  cases service with
  | getc | inp => simpa [resume] using hs
  | puts a | putsp a => exact stringLoop_mem_wf _ _ _ a s hs

/-- Every step keeps the canonical form of memory. -/
theorem step_mem_wf (h : step s = .next t) (hs : Memory.wf s.mem = true) : Memory.wf t.mem = true := by
  obtain ⟨-, ⟨service, -, rfl⟩ | ⟨-, he⟩⟩ := step_cases h
  · exact resume_mem_wf service hs
  · exact exec_mem_wf he (s.afterFetch_mem_wf hs)

end Sys2Proof.Machine
end

section
/-! SUPPORT. The condition flag (10_state.md section 4): one rule for every instruction and every step, from which both the flag
state machine and the legality of COND follow. -/

namespace Sys2Proof.Machine

/-- The flag of a value, read off the value as a number (R137). -/
theorem flagOf_eq (v : Word) :
    flagOf v =
      if 0x8000 ≤ v.toNat then Config.FL_NEG else if v.toNat = 0 then Config.FL_ZRO else Config.FL_POS := by
  have hsign : v.getLsbD 15 = decide (0x8000 ≤ v.toNat) := BitVec.msb_eq_decide v
  have hzero : v = 0 ↔ v.toNat = 0 := BitVec.toNat_inj.symm
  simp only [flagOf, hsign, hzero, decide_eq_true_eq]

/-- The flag rule computes the table of R137. -/
theorem flagDescribes_flagOf (v : Word) : FlagDescribes (flagOf v) v := by
  rw [flagOf_eq]
  refine ⟨fun h => ?_, fun h1 h2 => ?_, fun h => if_pos h⟩
  · rw [if_neg (by omega), if_pos h]
  · rw [if_neg (by omega), if_neg (by omega)]

/-- What running `i` from `s` to `t` does to COND: the flag of the destination register for a cycle of the flag-writing set that
has ended, and nothing in all other cases (R32, R275). -/
structure FlagRule (i : Instr) (s t : State) : Prop where
  written : ∀ dst, flagDest i = some dst → t.busy = none → t.cond = flagOf (t.reg dst)
  kept : flagDest i = none → t.cond = s.cond
  waits : t.busy ≠ none → t.cond = s.cond

section
variable {i : Instr} {s t u : State}

theorem FlagRule.of_not_member (hi : flagDest i = none) (hc : t.cond = s.cond) : FlagRule i s t where
  written dst hd _ := by rw [hi] at hd; cases hd
  kept _ := hc
  waits _ := hc

theorem FlagRule.of_written {dst : Reg} (hi : flagDest i = some dst) (hb : t.busy = none)
    (hc : t.cond = flagOf (t.reg dst)) : FlagRule i s t where
  written d hd _ := by rw [hi] at hd; cases hd; exact hc
  kept hn := by rw [hi] at hn; cases hn
  waits hw := absurd hb hw

theorem FlagRule.of_waiting {dst : Reg} (hi : flagDest i = some dst) (hb : t.busy ≠ none) (hc : t.cond = s.cond) :
    FlagRule i s t where
  written _ _ hn := absurd hn hb
  kept hn := by rw [hi] at hn; cases hn
  waits _ := hc

/-- How every flag-writing instruction but GETC and IN ends. -/
theorem FlagRule.of_setRegCC {dst : Reg} {v : Word} (hi : flagDest i = some dst) (hb : u.busy = none) :
    FlagRule i s (u.setRegCC dst v) :=
  .of_written hi hb rfl

theorem FlagRule.of_loadFrom {dst : Reg} {ea : Word} (hi : flagDest i = some dst) (hb : u.busy = none) :
    FlagRule i s (u.loadFrom dst ea) :=
  .of_setRegCC hi (by simpa using hb)

/-- GETC, from the TRAP or resumed. -/
theorem FlagRule.of_getcRead (hu : u.cond = s.cond) : FlagRule .getc s u.getcRead := by
  cases h : u.charIn.1 with
  | none => rw [State.getcRead_of_none h]; exact .of_waiting rfl (by simp) (by simpa using hu)
  | some c => rw [State.getcRead_of_byte h]; exact .of_written rfl rfl rfl

/-- IN, from the TRAP or resumed. -/
theorem FlagRule.of_inRead (hu : u.cond = s.cond) : FlagRule .inp s u.inRead := by
  cases h : u.charIn.1 with
  | none => rw [State.inRead_of_none h]; exact .of_waiting rfl (by simp) (by simpa using hu)
  | some c => rw [State.inRead_of_byte h]; exact .of_written rfl rfl rfl

theorem exec_flagRule (h : exec i s = .next t) (hb : s.busy = none) : FlagRule i s t := by
  cases i with
  | addReg | addImm | andReg | andImm | not | lea => cases h; exact .of_setRegCC rfl hb
  | ld | ldr => cases h; exact .of_loadFrom rfl hb
  | ldi => cases h; exact .of_loadFrom rfl (by simpa using hb)
  | getc => cases h; exact .of_getcRead rfl
  | inp => cases h; exact .of_inRead rfl
  | br mask off => obtain ⟨-, rfl⟩ | ⟨-, rfl⟩ := exec_br_cases h <;> exact .of_not_member rfl rfl
  | _ => cases h; exact .of_not_member rfl (by simp)

theorem resume_flagRule {service : Service} (hb : s.busy = some service) :
    FlagRule s.current s (resume service s) := by
  cases service with
  | getc => rw [show s.current = .getc by simp [State.current, hb]]; exact .of_getcRead rfl
  | inp => rw [show s.current = .inp by simp [State.current, hb]]; exact .of_inRead rfl
  | puts a => rw [show s.current = .puts by simp [State.current, hb]]; exact .of_not_member rfl (s.putsFrom_cond a)
  | putsp a => rw [show s.current = .putsp by simp [State.current, hb]]; exact .of_not_member rfl (s.putspFrom_cond a)

/-- Every step follows the flag rule for the instruction it works on: the fetch has no part in it. -/
theorem step_flagRule (h : step s = .next t) : FlagRule s.current s t := by
  obtain ⟨-, ⟨service, hb, rfl⟩ | ⟨hb, he⟩⟩ := step_cases h
  · exact resume_flagRule hb
  · rw [State.current_of_idle hb]
    obtain ⟨written, kept, waits⟩ := exec_flagRule he (by simpa using hb)
    exact ⟨written, by simpa using kept, by simpa using waits⟩

/-- The flag rule keeps COND legal (R31): it leaves COND alone or writes one of the three values. -/
theorem FlagRule.legalCond (h : FlagRule i s t) (hs : legalCond s.cond) : legalCond t.cond := by
  by_cases hb : t.busy = none
  · cases hi : flagDest i with
    | none => rw [h.kept hi]; exact hs
    | some dst => rw [h.written dst hi hb]; exact flagOf_cases _
  · rw [h.waits hb]; exact hs

end

end Sys2Proof.Machine
end

section
/-! SUPPORT. The statements on the state (10_state.md) settled: the invariant, the condition flag and the program counter. -/

namespace Sys2Proof.Machine

/-- Settles O48, clause by clause: memory by the lemma of each writer, COND by the flag rule, `busy` because HALT alone sets the
latch and starts no service. -/
theorem stepKeepsTheInvariant : Obligations.StepKeepsTheInvariant := by
  intro s t hs h
  exact ⟨step_mem_wf h hs.mem_wf, (step_flagRule h).legalCond hs.cond_legal, step_halted_idle h⟩

/-- Settles O40: every step follows the flag rule, whose flag is the table's. -/
theorem condChangesOnlyByTheFlagWritingSet : Obligations.CondChangesOnlyByTheFlagWritingSet := by
  refine ⟨rfl, fun s t h => ?_⟩
  obtain ⟨written, kept, waits⟩ := step_flagRule h
  refine ⟨fun dst hd hb => ?_, kept, waits⟩
  rw [written dst hd hb]
  exact flagDescribes_flagOf _

/-- Settles O41: a resumed service leaves `pc` alone, and an instruction moves it as its row of the table says. -/
theorem pcFollowsTheInstruction : Obligations.PcFollowsTheInstruction := by
  intro s t h
  obtain ⟨-, ⟨service, hb, rfl⟩ | ⟨hb, he⟩⟩ := step_cases h
  · exact ⟨fun hn => by simp [hb] at hn, fun _ => resume_pc service⟩
  · refine ⟨fun _ => ?_, fun hn => absurd hb hn⟩
    rw [exec_pc he, nextPc_afterFetch, State.current_of_idle hb]

/-- RESET meets the invariant, whatever the environment's streams. -/
theorem State.performReset_inv (s : State) : s.performReset.Inv where
  mem_wf := reset_mem_wf
  cond_legal := .inr (.inl rfl)
  halted_idle _ := rfl

/-- LOAD of one image keeps the invariant: it writes memory only. -/
theorem State.Inv.load {s : State} (h : s.Inv) (image : List Byte) : (s.load image).Inv := by
  unfold State.load
  split
  · exact ⟨loadWords_wf _ _ _ h.mem_wf, h.cond_legal, h.halted_idle⟩
  · exact h

/-- LOAD of several images keeps the invariant. -/
theorem State.Inv.loadAll {s : State} (h : s.Inv) (images : List (List Byte)) : (s.loadAll images).Inv := by
  induction images generalizing s with
  | nil => exact h
  | cons image images ih => exact ih (h.load image)

/-- Settles O49: RESET meets the invariant, and each LOAD keeps it. -/
theorem resetAndLoadMeetTheInvariant : Obligations.ResetAndLoadMeetTheInvariant :=
  ⟨State.performReset_inv State.reset, fun s images => s.performReset_inv.loadAll images⟩

end Sys2Proof.Machine
end

section
/-! SUPPORT. The write port (20_memory.md rule R56), and how many answers of the environment a read, a service, an instruction and
a step may take: none or one. -/

namespace Sys2Proof.Machine

/-- Settles O10: the write port is the memory array's own write, which the law of the array describes, and no field but `mem` is
written. -/
theorem writePortIsPlainStorage : Obligations.WritePortIsPlainStorage := fun s a v =>
  ⟨s.setWord_word_same a v, fun _ hb => s.setWord_word_of_ne v hb, fun r => s.memWrite_reg a v r, rfl, rfl, rfl, rfl, rfl,
    rfl, rfl⟩

/-! ## At most one answer -/

/-- From `s` to `t` the environment is asked once, or not at all (R60, R233; log entry 4). -/
def AsksAtMostOnce (s t : State) : Prop := InputKept s t ∨ InputKept s.draw.2 t

variable {s t u : State}

theorem InputKept.refl (s : State) : InputKept s s := ⟨rfl, rfl⟩

theorem InputKept.trans (h : InputKept s t) (h' : InputKept t u) : InputKept s u :=
  ⟨h'.1.trans h.1, h'.2.trans h.2⟩

/-- The next answer, and what is left after it, depend on the two input fields alone. -/
theorem InputKept.draw (h : InputKept s t) : InputKept s.draw.2 t.draw.2 := by
  obtain ⟨hinput, hdraws⟩ := h
  unfold State.draw
  rw [hinput, hdraws]
  split
  · exact ⟨hinput, hdraws⟩
  all_goals exact ⟨rfl, rfl⟩

/-- Whoever keeps the input first may still ask once. -/
theorem InputKept.trans_asks (h : InputKept s t) (h' : AsksAtMostOnce t u) : AsksAtMostOnce s u :=
  h'.imp h.trans h.draw.trans

/-! ## The read port -/

/-- A read of any other address asks nothing. -/
theorem State.memRead_inputKept {a : Word} (h : a ≠ Config.KBSR_ADDR) : InputKept s (s.memRead a).2 := by
  rw [s.memRead_of_ne h]
  exact .refl s

/-- A read of the status word asks once. -/
theorem State.memRead_kbsr_inputKept : InputKept s.draw.2 (s.memRead Config.KBSR_ADDR).2 := by
  rw [State.memRead_kbsr]
  show InputKept s.draw.2 (latchPoll s.kbdPoll)
  rw [latchPoll_frame, State.kbdPoll_snd]
  exact ⟨rfl, rfl⟩

theorem State.memRead_asks (s : State) (a : Word) : AsksAtMostOnce s (s.memRead a).2 := by
  by_cases h : a = Config.KBSR_ADDR
  · subst h; exact .inr State.memRead_kbsr_inputKept
  · exact .inl (State.memRead_inputKept h)

/-- A poll leaves one of two words in the status word: 0x8000 with a byte, 0 without (R52). -/
theorem latchPoll_kbsr (p : Option Byte × State) :
    (latchPoll p).word Config.KBSR_ADDR = 0x8000 ∨ (latchPoll p).word Config.KBSR_ADDR = 0x0000 := by
  obtain ⟨_ | b, s⟩ := p
  · exact .inr (s.setWord_word_same _ _)
  · refine .inl ?_
    show (((s.setWord Config.KBSR_ADDR 0x8000).setWord Config.KBDR_ADDR (zext8 b)).word Config.KBSR_ADDR) = 0x8000
    rw [State.setWord_word_of_ne _ _ (by decide), State.setWord_word_same]

/-- A read of the status word gives one of two words, whatever was stored there. -/
theorem State.memRead_kbsr_value (s : State) :
    (s.memRead Config.KBSR_ADDR).1 = 0x8000 ∨ (s.memRead Config.KBSR_ADDR).1 = 0x0000 :=
  latchPoll_kbsr s.kbdPoll

/-- Two reads in a row, the second at the address the first one gives, ask at most once: a poll never gives the status word's own
address. -/
theorem State.memRead_memRead_asks (s : State) (a : Word) :
    AsksAtMostOnce s ((s.memRead a).2.memRead (s.memRead a).1).2 := by
  by_cases h : a = Config.KBSR_ADDR
  · subst h
    have hpointer : (s.memRead Config.KBSR_ADDR).1 ≠ Config.KBSR_ADDR := by
      rcases s.memRead_kbsr_value with hv | hv <;> rw [hv] <;> decide
    exact .inr (State.memRead_kbsr_inputKept.trans (State.memRead_inputKept hpointer))
  · exact (State.memRead_inputKept h).trans_asks (State.memRead_asks _ _)

/-! ## The services -/

/-- TRAP's own effect asks nothing. -/
theorem State.enterTrap_inputKept : InputKept s s.enterTrap := ⟨rfl, rfl⟩

/-- GETC's read asks once, and nothing after it asks. -/
theorem State.getcRead_asks (s : State) : AsksAtMostOnce s s.getcRead := by
  cases h : s.charIn.1 with
  | none => rw [State.getcRead_of_none h]; exact .inr ⟨rfl, rfl⟩
  | some c => rw [State.getcRead_of_byte h]; exact .inr ⟨rfl, rfl⟩

/-- IN's read asks once, and nothing after it asks. -/
theorem State.inRead_asks (s : State) : AsksAtMostOnce s s.inRead := by
  cases h : s.charIn.1 with
  | none => rw [State.inRead_of_none h]; exact .inr ⟨rfl, rfl⟩
  | some c => rw [State.inRead_of_byte h]; exact .inr ⟨rfl, rfl⟩

/-- In 65535 words from the one after the status word the loop does not come back to it. -/
theorem after_kbsr_ne {k : Nat} (h : k < 65535) : Config.KBSR_ADDR + 1 + BitVec.ofNat 16 k ≠ Config.KBSR_ADDR := by
  unfold Config.KBSR_ADDR
  bv_omega

section
variable (bytes : Word → List Byte) (inProgress : Word → Service)

/-- A string loop that does not come to the status word asks nothing. -/
theorem stringLoop_inputKept {n : Nat} {a : Word} (h : ∀ k < n, a + BitVec.ofNat 16 k ≠ Config.KBSR_ADDR) :
    InputKept s (stringLoop bytes inProgress n a s) := by
  induction n generalizing a s with
  | zero => exact .refl s
  | succ n ih =>
    have hread : InputKept s (s.memRead a).2 := State.memRead_inputKept (by simpa using h 0 (by omega))
    by_cases hz : (s.memRead a).1 = 0
    · rw [stringLoop_stop _ _ hz]
      exact hread
    · rw [stringLoop_go _ _ hz]
      refine hread.trans (ih (s := (s.memRead a).2.charsOut _) fun k hk => ?_)
      have hne := h (k + 1) (by omega)
      rwa [Nat.add_comm, BitVec.ofNat_add, ← BitVec.add_assoc] at hne

/-- A string loop of at most 65536 words comes to the status word at most once, so it asks at most once (log entry 5). -/
theorem stringLoop_asks {n : Nat} (hn : n ≤ 65536) (a : Word) (s : State) :
    AsksAtMostOnce s (stringLoop bytes inProgress n a s) := by
  induction n generalizing a s with
  | zero => exact .inl (.refl s)
  | succ n ih =>
    by_cases hz : (s.memRead a).1 = 0
    · rw [stringLoop_stop _ _ hz]
      exact s.memRead_asks a
    · rw [stringLoop_go _ _ hz]
      by_cases ha : a = Config.KBSR_ADDR
      · subst ha
        exact .inr (State.memRead_kbsr_inputKept.trans
          (stringLoop_inputKept bytes inProgress (s := (s.memRead _).2.charsOut _)
            fun k hk => after_kbsr_ne (by omega)))
      · have hread : InputKept s ((s.memRead a).2.charsOut (bytes (s.memRead a).1)) := State.memRead_inputKept ha
        exact hread.trans_asks (ih (by omega) (a + 1) _)

end

theorem State.putsFrom_asks (s : State) (a : Word) : AsksAtMostOnce s (s.putsFrom a) := stringLoop_asks _ _ le_rfl a s

theorem State.putspFrom_asks (s : State) (a : Word) : AsksAtMostOnce s (s.putspFrom a) := stringLoop_asks _ _ le_rfl a s

/-! ## An instruction, a service gone on with, a step -/

/-- Every instruction asks at most once after its fetch. -/
theorem exec_asks {i : Instr} (h : exec i s = .next t) : AsksAtMostOnce s t := by
  cases i with
  | br mask off => obtain ⟨-, rfl⟩ | ⟨-, rfl⟩ := exec_br_cases h <;> exact .inl ⟨rfl, rfl⟩
  | ld | ldr => cases h; exact s.memRead_asks _
  | ldi dr off => cases h; exact s.memRead_memRead_asks _
  | sti sr off => cases h; exact s.memRead_asks (s.pcRel9 off)
  | getc => cases h; exact State.enterTrap_inputKept.trans_asks (State.getcRead_asks _)
  | inp =>
    cases h
    have hprompt : InputKept s (s.enterTrap.charsOut Config.IN_PROMPT) := State.enterTrap_inputKept
    exact hprompt.trans_asks (State.inRead_asks _)
  | puts => cases h; exact State.enterTrap_inputKept.trans_asks (State.putsFrom_asks _ _)
  | putsp => cases h; exact State.enterTrap_inputKept.trans_asks (State.putspFrom_asks _ _)
  | _ => cases h; exact .inl ⟨rfl, rfl⟩

/-- Going on with a service asks at most once. -/
theorem resume_asks (service : Service) : AsksAtMostOnce s (resume service s) := by
  cases service with
  | getc => exact s.getcRead_asks
  | inp => exact s.inRead_asks
  | puts a => exact s.putsFrom_asks a
  | putsp a => exact s.putspFrom_asks a

/-- BR with an empty mask is never taken (R172). -/
theorem exec_br_zero (off : BitVec 9) (s : State) : exec (.br 0 off) s = .next s := by simp [branchTaken]

/-- A fetch at the status word's address polls, and both words a poll can leave there are instructions that do nothing: RES8 and
BR with an empty mask (R58(c)). -/
theorem exec_fetched_of_kbsr (h : s.pc = Config.KBSR_ADDR) : exec (decode s.fetched) s.afterFetch = .next s.afterFetch := by
  have hfetched : s.fetched = 0x8000 ∨ s.fetched = 0x0000 := by
    rw [State.fetched, h]
    exact s.memRead_kbsr_value
  rcases hfetched with hw | hw <;> rw [hw]
  · rw [show decode 0x8000 = .res8 by decide, exec_res8]
  · rw [show decode 0x0000 = .br 0 0 by decide, exec_br_zero]

/-- Settles O47: a service asks at most once; an instruction does so too when its fetch asks nothing; and when the fetch polls, the
instruction does nothing. -/
theorem stepTakesAtMostOneAnswer : Obligations.StepTakesAtMostOneAnswer := by
  intro s t h
  show AsksAtMostOnce s t
  obtain ⟨-, ⟨service, -, rfl⟩ | ⟨-, he⟩⟩ := step_cases h
  · exact resume_asks service
  · by_cases hpc : s.pc = Config.KBSR_ADDR
    · rw [exec_fetched_of_kbsr hpc] at he
      cases he
      exact s.memRead_asks s.pc
    · have hfetch : InputKept s s.afterFetch := State.memRead_inputKept hpc
      exact hfetch.trans_asks (exec_asks he)

end Sys2Proof.Machine
end

section
/-! SUPPORT. Sign extension (30_encoding.md section 3): the field stands unchanged in the low bits of its sign extension. -/

namespace Sys2Proof.Machine

/-- A sign extension puts copies of the sign bit above the field, so the low bits are the field: for every width that is extended
and not cut. -/
theorem extractLsb'_signExtend_of_le {w n : Nat} (h : w ≤ n) (field : BitVec w) :
    (field.signExtend n).extractLsb' 0 w = field := by
  rw [BitVec.signExtend_eq_append_of_le h, BitVec.extractLsb'_cast, BitVec.extractLsb'_append_eq_right]

/-- Settles O5: each `sext_N` widens its field to 16 bits, which keeps the field's own bits. -/
theorem signExtensionGivesTheFieldBack : Obligations.SignExtensionGivesTheFieldBack := by
  intro v
  exact ⟨extractLsb'_signExtend_of_le (by decide) _, extractLsb'_signExtend_of_le (by decide) _,
    extractLsb'_signExtend_of_le (by decide) _, extractLsb'_signExtend_of_le (by decide) _⟩

end Sys2Proof.Machine
end

section
/-! SUPPORT. `SetCC` (40_instruction_cycle.md rule R136): the flag of a value in its three cases, and all that setting it keeps. -/

namespace Sys2Proof.Machine

theorem flagOf_of_sign {v : Word} (hsign : v.getLsbD 15 = true) : flagOf v = Config.FL_NEG := if_pos hsign

theorem flagOf_of_zero {v : Word} (hzero : v = 0) : flagOf v = Config.FL_ZRO := by rw [hzero]; rfl

theorem flagOf_of_no_sign_of_ne_zero {v : Word} (hsign : v.getLsbD 15 = false) (hzero : v ≠ 0) :
    flagOf v = Config.FL_POS := by
  rw [flagOf, if_neg (Bool.eq_false_iff.mp hsign), if_neg hzero]

section
variable (s : State) (i : Reg)

theorem State.setCC_regsKept : RegsKept s (s.setCC i) := fun r => s.setCC_reg i r

theorem State.setCC_outsideKept : OutsideKept s (s.setCC i) where
  memory a := s.setCC_word i a
  input := ⟨s.setCC_input i, s.setCC_draws i⟩
  output := s.setCC_output i
  halted := s.setCC_halted i
  busy := s.setCC_busy i

end

/-- Settles O8: COND becomes the flag of what the register holds, in each of the three cases of a value, and COND alone is
written. -/
theorem setCCFollowsTheRegister : Obligations.SetCCFollowsTheRegister := by
  intro s i
  rw [s.setCC_cond i]
  exact ⟨flagOf_of_sign, fun _ => flagOf_of_zero, flagOf_of_no_sign_of_ne_zero,
    s.setCC_regsKept i, s.setCC_pc i, s.setCC_outsideKept i⟩

end Sys2Proof.Machine
end

section
/-! SUPPORT. Which service a step may leave in progress (40_instruction_cycle.md R141, 60_exceptions.md R275): the one whose
instruction the step worked on, or none. -/

namespace Sys2Proof.Machine

/-- The instruction whose cycle a service belongs to (R234, R238, R241, R244). -/
def Service.instr : Service → Instr
  | .getc => .getc
  | .inp => .inp
  | .puts _ => .puts
  | .putsp _ => .putsp

variable {s t : State} {service : Service}

/-- With a service in progress a step works on that service's instruction. -/
theorem State.current_of_busy (h : s.busy = some service) : s.current = service.instr := by
  cases service <;> simp [State.current, Service.instr, h]

theorem State.getcRead_busy (h : s.getcRead.busy = some service) : service = .getc := by
  cases hc : s.charIn.1 with
  | none => simpa [State.getcRead_of_none hc] using h.symm
  | some c => simp [State.getcRead_of_byte hc] at h

theorem State.inRead_busy (h : s.inRead.busy = some service) : service = .inp := by
  cases hc : s.charIn.1 with
  | none => simpa [State.inRead_of_none hc] using h.symm
  | some c => simp [State.inRead_of_byte hc] at h

/-- A string loop that does not come to its zero word names its own service, at some address (log entry 5). -/
theorem stringLoop_busy {bytes : Word → List Byte} {inProgress : Word → Service} {n : Nat} {a : Word}
    (h : (stringLoop bytes inProgress n a s).busy = some service) : ∃ b, service = inProgress b := by
  induction n generalizing a s with
  | zero => exact ⟨a, (Option.some.inj h).symm⟩
  | succ n ih =>
    by_cases hz : (s.memRead a).1 = 0
    · rw [stringLoop_stop _ _ hz] at h
      cases h
    · rw [stringLoop_go _ _ hz] at h
      exact ih h

/-- A service is left in progress by the instruction it belongs to. -/
theorem exec_busy {i : Instr} (h : exec i s = .next t) (hb : s.busy = none) (ht : t.busy = some service) :
    i = service.instr := by
  cases i with
  | getc => cases h; rw [State.getcRead_busy ht]; rfl
  | inp => cases h; rw [State.inRead_busy ht]; rfl
  | puts | putsp => cases h; obtain ⟨b, rfl⟩ := stringLoop_busy ht; rfl
  | br mask off => obtain ⟨-, rfl⟩ | ⟨-, rfl⟩ := exec_br_cases h <;> simp [hb] at ht
  | _ => cases h; simp [hb] at ht

/-- A service gone on with may stay in progress, and no other takes its place. -/
theorem resume_busy {service' : Service} (h : (resume service s).busy = some service') :
    service.instr = service'.instr := by
  cases service with
  | getc => rw [State.getcRead_busy h]
  | inp => rw [State.inRead_busy h]
  | puts a | putsp a => obtain ⟨b, rfl⟩ := stringLoop_busy h; rfl

/-- The service a step leaves in progress is that of the instruction it worked on. -/
theorem step_busy (h : step s = .next t) (ht : t.busy = some service) : s.current = service.instr := by
  obtain ⟨-, ⟨service', hb, rfl⟩ | ⟨hb, he⟩⟩ := step_cases h
  · rw [State.current_of_busy hb]
    exact resume_busy ht
  · rw [State.current_of_idle hb]
    exact exec_busy he (by simpa using hb) ht

/-- Settles O54: the service left in progress belongs to the instruction the step worked on, and each of the four services is one
of the four named. -/
theorem onlyFourServicesLeaveACycleUnfinished : Obligations.OnlyFourServicesLeaveACycleUnfinished := by
  intro s t h ht
  obtain ⟨service, hservice⟩ := Option.ne_none_iff_exists'.mp ht
  have hcurrent : s.current = service.instr := step_busy h hservice
  refine ⟨by rw [State.current_of_busy hservice, hcurrent], ?_⟩
  rw [hcurrent]
  cases service <;> simp [Service.instr]

end Sys2Proof.Machine
end

section
/-! SUPPORT. Who writes a register (10_state.md rule R23, 45_trap.md rule R251). A register is kept by an instruction that does not
save the PC in it, unless it is the destination of one of the flag-writing set whose cycle has ended. -/

namespace Sys2Proof.Machine

variable {s t : State} {r : Reg}

/-! ## The shared operations -/

theorem State.loadFrom_reg_of_ne (s : State) {dr : Reg} (ea : Word) (h : r ≠ dr) : (s.loadFrom dr ea).reg r = s.reg r :=
  ((s.memRead ea).2.setRegCC_reg_of_ne _ h).trans (s.memRead_reg ea r)

@[simp] theorem State.putsFrom_reg (s : State) (a : Word) (r : Reg) : (s.putsFrom a).reg r = s.reg r :=
  congrArg (Regs.get · r) (s.putsFrom_regs a)

@[simp] theorem State.putspFrom_reg (s : State) (a : Word) (r : Reg) : (s.putspFrom a).reg r = s.reg r :=
  congrArg (Regs.get · r) (s.putspFrom_regs a)

/-- GETC from its read on writes R0 alone, and that only when it ends (R234, R275). -/
theorem State.getcRead_reg (h : r = .r0 → s.getcRead.busy ≠ none) : s.getcRead.reg r = s.reg r := by
  cases hc : s.charIn.1 with
  | none => simp [State.getcRead_of_none hc]
  | some c =>
    rw [State.getcRead_of_byte hc] at h ⊢
    have hr : r ≠ .r0 := fun e => h e rfl
    simp [State.setRegCC_reg_of_ne _ _ hr]

/-- IN from its read on writes R0 alone, and that only when it ends (R241, R275). -/
theorem State.inRead_reg (h : r = .r0 → s.inRead.busy ≠ none) : s.inRead.reg r = s.reg r := by
  cases hc : s.charIn.1 with
  | none => simp [State.inRead_of_none hc]
  | some c =>
    rw [State.inRead_of_byte hc] at h ⊢
    have hr : r ≠ .r0 := fun e => h e rfl
    simp [State.setRegCC_reg_of_ne _ _ hr]

/-! ## An instruction, a service gone on with -/

/-- An instruction keeps every register that it neither completes a write to as its destination nor saves the PC in. -/
theorem exec_reg_kept {i : Instr} (h : exec i s = .next t) (hb : s.busy = none)
    (hdest : flagDest i = some r → t.busy ≠ none) (hsaved : savesPc i = true → r ≠ .r7) : t.reg r = s.reg r := by
  have hne : ∀ dst, flagDest i = some dst → t.busy = none → r ≠ dst := fun dst hd hidle hr => hdest (hr ▸ hd) hidle
  cases i with
  | addReg | addImm | andReg | andImm | not | lea => cases h; exact s.setRegCC_reg_of_ne _ (hne _ rfl hb)
  | ld | ldr => cases h; exact s.loadFrom_reg_of_ne _ (hne _ rfl (by simpa using hb))
  | ldi dr off =>
    cases h
    exact (State.loadFrom_reg_of_ne _ _ (hne _ rfl (by simpa using hb))).trans (s.memRead_reg _ r)
  | jsr | jsrr => cases h; exact s.setReg_reg_of_ne _ (hsaved rfl)
  | getc =>
    cases h
    exact (State.getcRead_reg fun hr : r = .r0 => hdest (hr ▸ rfl)).trans (s.enterTrap_reg_of_ne (hsaved rfl))
  | inp =>
    cases h
    exact (State.inRead_reg fun hr : r = .r0 => hdest (hr ▸ rfl)).trans (s.enterTrap_reg_of_ne (hsaved rfl))
  | out | puts | putsp | halt | trap => cases h; simpa using s.enterTrap_reg_of_ne (hsaved rfl)
  | br mask off => obtain ⟨-, rfl⟩ | ⟨-, rfl⟩ := exec_br_cases h <;> rfl
  | jmp | st | sti | str | res8 | res13 => cases h; simp

/-- JSR, JSRR and every TRAP save the incremented PC in R7, and nothing after that in the cycle writes R7 (R178, R230). -/
theorem exec_saves_pc {i : Instr} (h : exec i s = .next t) (hi : savesPc i = true) : t.reg .r7 = s.pc := by
  cases i with
  | jsr | jsrr => cases h; exact s.setReg_reg_same .r7 s.pc
  | getc => cases h; exact State.getcRead_reg nofun
  | inp => cases h; exact State.inRead_reg nofun
  | out | puts | putsp | halt | trap => cases h; simp
  | _ => cases hi

/-- A service gone on with keeps every register that it does not complete a write to as its destination. -/
theorem resume_reg_kept (service : Service)
    (hdest : flagDest service.instr = some r → (resume service s).busy ≠ none) : (resume service s).reg r = s.reg r := by
  cases service with
  | getc => exact State.getcRead_reg fun hr => hdest (hr ▸ rfl)
  | inp => exact State.inRead_reg fun hr => hdest (hr ▸ rfl)
  | puts a => exact s.putsFrom_reg a r
  | putsp a => exact s.putspFrom_reg a r

/-! ## A step -/

/-- A step keeps every register that it neither completes a write to as a destination nor saves the PC in. -/
theorem step_reg_kept (h : step s = .next t) (hdest : flagDest s.current = some r → t.busy ≠ none)
    (hsaved : s.busy = none → savesPc s.current = true → r ≠ .r7) : t.reg r = s.reg r := by
  obtain ⟨-, ⟨service, hb, rfl⟩ | ⟨hb, he⟩⟩ := step_cases h
  · rw [State.current_of_busy hb] at hdest
    exact resume_reg_kept service hdest
  · rw [State.current_of_idle hb] at hdest hsaved
    exact (exec_reg_kept he (by simpa using hb) hdest (hsaved hb)).trans (s.afterFetch_reg r)

/-- A step that starts the cycle of JSR, JSRR or TRAP saves the address of the instruction plus 1 in R7. -/
theorem step_saves_pc (h : step s = .next t) (hb : s.busy = none) (hs : savesPc s.current = true) :
    t.reg .r7 = s.pc + 1 := by
  obtain ⟨-, ⟨service, hb', -⟩ | ⟨-, he⟩⟩ := step_cases h
  · simp [hb] at hb'
  · rw [State.current_of_idle hb] at hs
    rw [exec_saves_pc he hs, State.afterFetch_pc]

/-- Settles O42: a register that is no destination, and any register but R7 while the cycle has not ended, is one a step keeps;
and R7 holds the saved PC. -/
theorem registersChangeOnlyAsDestinations : Obligations.RegistersChangeOnlyAsDestinations := by
  intro s t h
  refine ⟨fun r hd hn => ?_, step_saves_pc h, fun ht r hr => ?_⟩
  · exact step_reg_kept h (fun hd' => absurd hd' hd) fun hb hs hr => hn ⟨hb, hs, hr⟩
  · exact step_reg_kept h (fun _ => ht) fun _ _ => hr

end Sys2Proof.Machine
end

section
/-! SUPPORT. RESET (70_reset_and_hazards.md rule R300): the first state has the reset values, and RESET gives that state with the
environment's input as it was (R40). -/

namespace Sys2Proof.Machine

@[simp] theorem State.reset_reg (r : Reg) : State.reset.reg r = 0x0000 := by cases r <;> rfl

@[simp] theorem State.reset_word (a : Word) : State.reset.word a = 0x0000 := rfl

section
variable (s : State)

@[simp] theorem State.performReset_reg (r : Reg) : s.performReset.reg r = 0x0000 := State.reset_reg r

@[simp] theorem State.performReset_word (a : Word) : s.performReset.word a = 0x0000 := State.reset_word a

theorem State.performReset_inputKept : InputKept s s.performReset := ⟨rfl, rfl⟩

end

/-- Settles O50: registers and memory by the lemmas of the first state, which hold after RESET too, the input by RESET's own rule,
and the single fields as the two definitions write them. -/
theorem resetState : Obligations.ResetState :=
  ⟨fun s => ⟨s.performReset_reg, rfl, rfl, s.performReset_word, rfl, rfl, rfl, s.performReset_inputKept⟩,
    State.reset_reg, rfl, rfl, State.reset_word, rfl, rfl⟩

end Sys2Proof.Machine
end

section
/-! SUPPORT. LOAD (70_reset_and_hazards.md rules R306 to R310): which word of an image an address reads after its payload is
stored. The recursion of `loadWords` is followed by `payloadAt`, which `imageAt` is at the image's own origin. -/

namespace Sys2Proof.Machine

/-- The word that a payload stored from address `origin` on gives for the address `a`, if it covers it: `imageAt` without the
header. -/
def payloadAt (origin : Nat) (payload : List Byte) (a : Word) : Option Word :=
  if origin ≤ a.toNat ∧ 2 * (a.toNat - origin) + 1 < payload.length then
    some (imageWord (payload.getD (2 * (a.toNat - origin)) 0) (payload.getD (2 * (a.toNat - origin) + 1) 0))
  else none

section
variable {origin : Nat} {a : Word}

/-- Two bytes in front move every complete word one place on (R310). -/
theorem wordIndex_lt_cons_cons (hi lo : Byte) (rest : List Byte) (k : Nat) :
    2 * k + 2 + 1 < (hi :: lo :: rest).length ↔ 2 * k + 1 < rest.length := by
  simp only [List.length_cons]
  omega

/-- A payload covers no address before its origin. -/
theorem payloadAt_of_lt (payload : List Byte) (h : a.toNat < origin) : payloadAt origin payload a = none :=
  if_neg (by omega)

/-- A payload of fewer than two bytes has no complete word (R310). -/
theorem payloadAt_of_short {payload : List Byte} (h : payload.length < 2) : payloadAt origin payload a = none :=
  if_neg (by omega)

/-- The first word of a payload is the one for its origin. -/
theorem payloadAt_cons_same (hi lo : Byte) (rest : List Byte) (h : a.toNat = origin) :
    payloadAt origin (hi :: lo :: rest) a = some (imageWord hi lo) := by
  simp [payloadAt, h]

/-- For every other address the payload is the one after its first word, an address further on. -/
theorem payloadAt_cons_of_ne (hi lo : Byte) (rest : List Byte) (h : a.toNat ≠ origin) :
    payloadAt origin (hi :: lo :: rest) a = payloadAt (origin + 1) rest a := by
  by_cases hlt : a.toNat < origin
  · rw [payloadAt_of_lt _ hlt, payloadAt_of_lt _ (by omega)]
  · have hword : a.toNat - origin = a.toNat - (origin + 1) + 1 := by omega
    have hhere : origin ≤ a.toNat := by omega
    have hnext : origin + 1 ≤ a.toNat := by omega
    simp only [payloadAt, hword, Nat.mul_succ, wordIndex_lt_cons_cons, List.getD_cons_succ, hhere, hnext]

end

/-- Storing a payload: an address it covers reads the payload's word, and every other address reads as before (R308). A word once
stored stays, because what follows it covers higher addresses only. -/
theorem readWord_loadWords (origin : Nat) (payload : List Byte) (m : Memory) (a : Word) :
    readWord (loadWords origin payload m) a = (payloadAt origin payload a).getD (readWord m a) := by
  fun_induction loadWords origin payload m with
  | case1 origin hi lo rest m hin ih =>
    rw [ih]
    by_cases ha : a.toNat = origin
    · have hword : BitVec.ofNat 16 origin = a := by rw [← ha, BitVec.ofNat_toNat, BitVec.setWidth_eq]
      rw [payloadAt_of_lt rest (by omega), payloadAt_cons_same hi lo rest ha, hword]
      exact readWord_writeWord_same m a _
    · have hword : a ≠ BitVec.ofNat 16 origin := by
        rintro rfl
        exact ha (Nat.mod_eq_of_lt (by omega))
      rw [payloadAt_cons_of_ne hi lo rest ha, readWord_writeWord_of_ne m _ hword]
  | case2 origin hi lo rest m hout =>
    rw [payloadAt_of_lt _ (by omega)]
    rfl
  | case3 payload origin m hshort =>
    have hlen : payload.length < 2 := by
      match payload, hshort with
      | [], _ => decide
      | [_], _ => exact Nat.lt_succ_self 1
      | hi :: lo :: rest, h => exact absurd rfl (h hi lo rest)
    rw [payloadAt_of_short hlen]
    rfl

/-- The two bytes of an image's word, most significant first, as a number (R307). -/
theorem imageWord_toNat (hi lo : Byte) : (imageWord hi lo).toNat = hi.toNat * 256 + lo.toNat := by
  rw [imageWord, BitVec.toNat_append, ← Nat.shiftLeft_add_eq_or_of_lt lo.isLt, Nat.shiftLeft_eq]

theorem imageWord_eq_ofNat (hi lo : Byte) : imageWord hi lo = BitVec.ofNat 16 (hi.toNat * 256 + lo.toNat) := by
  rw [← imageWord_toNat, BitVec.ofNat_toNat, BitVec.setWidth_eq]

/-- An image is its origin, in the first two bytes, and the payload stored from there on (R306). -/
theorem imageAt_cons (hi lo : Byte) (payload : List Byte) (a : Word) :
    imageAt (hi :: lo :: payload) a = payloadAt (imageWord hi lo).toNat payload a := by
  have horigin : imageOrigin (hi :: lo :: payload) = (imageWord hi lo).toNat := (imageWord_toNat hi lo).symm
  simp only [imageAt, payloadAt, horigin, ← imageWord_eq_ofNat]
  generalize a.toNat - (imageWord hi lo).toNat = k
  simp only [Nat.add_comm 2, Nat.add_comm 3, wordIndex_lt_cons_cons, List.getD_cons_succ]

/-- An image of fewer than two bytes covers no address (R308). -/
theorem imageAt_of_short {image : List Byte} (h : image.length < 2) (a : Word) : imageAt image a = none :=
  if_neg (by omega)

/-- After LOAD of one image an address reads the image's word if the image covers it, and else what it read before. -/
theorem State.load_word (s : State) (image : List Byte) (a : Word) :
    (s.load image).word a = (imageAt image a).getD (s.word a) := by
  match image with
  | hi :: lo :: payload =>
    rw [imageAt_cons]
    exact readWord_loadWords _ payload s.mem a
  | [] | [_] => rw [imageAt_of_short (by simp)]; rfl

/-- LOAD of several images ends with the LOAD of the last one. -/
theorem State.loadAll_append_singleton (s : State) (images : List (List Byte)) (last : List Byte) :
    s.loadAll (images ++ [last]) = (s.loadAll images).load last :=
  List.foldl_concat State.load s last images

/-- Settles O52: the last image is loaded last, so the rule for one LOAD says which of its words stand. -/
theorem laterImagesTakePrecedence : Obligations.LaterImagesTakePrecedence := by
  intro s images last a
  rw [s.loadAll_append_singleton]
  exact ⟨(s.loadAll images).load_word last a, rfl⟩

end Sys2Proof.Machine
end

section
/-! SUPPORT. The decoder and the encoder (30_encoding.md): one lemma for each row of the opcode table, the fields of each format's
word, and the fields of a word that a row's value matches under its mask. -/

namespace Sys2Proof

/-! ## Registers and selectors -/

@[simp] theorem regOfBits_bitsOfReg (r : Reg) : regOfBits (bitsOfReg r) = r := by cases r <;> rfl

/-- The selectors of no service are the ones below 0x20 and the ones above 0x25 (R110). -/
theorem unlistedSelector_iff (v : BitVec 8) : unlistedSelector v = true ↔ v.toNat < 0x20 ∨ 0x25 < v.toNat := by
  simp only [unlistedSelector, Bool.and_eq_true, bne_iff_ne, Config.TV_GETC, Config.TV_OUT, Config.TV_PUTS, Config.TV_IN,
    Config.TV_PUTSP, Config.TV_HALT]
  bv_omega

theorem decodeTrap_of_unlisted {v : BitVec 8} (h : unlistedSelector v = true) : decodeTrap v = .trap v := by
  simp only [unlistedSelector, Bool.and_eq_true, bne_iff_ne] at h
  obtain ⟨⟨⟨⟨⟨hgetc, hout⟩, hputs⟩, hin⟩, hputsp⟩, hhalt⟩ := h
  rw [decodeTrap, if_neg hgetc, if_neg hout, if_neg hputs, if_neg hin, if_neg hputsp, if_neg hhalt]

/-- A selector decodes to its service, or it has none. -/
theorem decodeTrap_wf (v : BitVec 8) : (decodeTrap v).wf = true := by
  unfold decodeTrap
  split_ifs
  case neg => simp [Instr.wf, unlistedSelector, *]
  all_goals rfl

/-! ## The rows of the opcode table (R108, R110) -/

section
variable {w : Word}

theorem decode_of_add_register (h : opcodeField w = Config.OPC_ADD) (hmode : immediateBit w = false) :
    decode w = .addReg (regOfBits (drField w)) (regOfBits (sr1Field w)) (regOfBits (sr2Field w)) := by
  rw [decode, h, hmode]; rfl

theorem decode_of_add_immediate (h : opcodeField w = Config.OPC_ADD) (hmode : immediateBit w = true) :
    decode w = .addImm (regOfBits (drField w)) (regOfBits (sr1Field w)) (imm5Field w) := by
  rw [decode, h, hmode]; rfl

theorem decode_of_and_register (h : opcodeField w = Config.OPC_AND) (hmode : immediateBit w = false) :
    decode w = .andReg (regOfBits (drField w)) (regOfBits (sr1Field w)) (regOfBits (sr2Field w)) := by
  rw [decode, h, hmode]; rfl

theorem decode_of_and_immediate (h : opcodeField w = Config.OPC_AND) (hmode : immediateBit w = true) :
    decode w = .andImm (regOfBits (drField w)) (regOfBits (sr1Field w)) (imm5Field w) := by
  rw [decode, h, hmode]; rfl

theorem decode_of_not (h : opcodeField w = Config.OPC_NOT) :
    decode w = .not (regOfBits (drField w)) (regOfBits (sr1Field w)) := by rw [decode, h]; rfl

theorem decode_of_br (h : opcodeField w = Config.OPC_BR) : decode w = .br (maskField w) (offset9Field w) := by
  rw [decode, h]; rfl

theorem decode_of_jmp (h : opcodeField w = Config.OPC_JMP) : decode w = .jmp (regOfBits (sr1Field w)) := by
  rw [decode, h]; rfl

theorem decode_of_jsr_long (h : opcodeField w = Config.OPC_JSR) (hmode : longBit w = true) :
    decode w = .jsr (offset11Field w) := by rw [decode, h, hmode]; rfl

theorem decode_of_jsr_register (h : opcodeField w = Config.OPC_JSR) (hmode : longBit w = false) :
    decode w = .jsrr (regOfBits (sr1Field w)) := by rw [decode, h, hmode]; rfl

theorem decode_of_ld (h : opcodeField w = Config.OPC_LD) : decode w = .ld (regOfBits (drField w)) (offset9Field w) := by
  rw [decode, h]; rfl

theorem decode_of_ldi (h : opcodeField w = Config.OPC_LDI) : decode w = .ldi (regOfBits (drField w)) (offset9Field w) := by
  rw [decode, h]; rfl

theorem decode_of_ldr (h : opcodeField w = Config.OPC_LDR) :
    decode w = .ldr (regOfBits (drField w)) (regOfBits (sr1Field w)) (offset6Field w) := by rw [decode, h]; rfl

theorem decode_of_lea (h : opcodeField w = Config.OPC_LEA) : decode w = .lea (regOfBits (drField w)) (offset9Field w) := by
  rw [decode, h]; rfl

theorem decode_of_st (h : opcodeField w = Config.OPC_ST) : decode w = .st (regOfBits (drField w)) (offset9Field w) := by
  rw [decode, h]; rfl

theorem decode_of_sti (h : opcodeField w = Config.OPC_STI) : decode w = .sti (regOfBits (drField w)) (offset9Field w) := by
  rw [decode, h]; rfl

theorem decode_of_str (h : opcodeField w = Config.OPC_STR) :
    decode w = .str (regOfBits (drField w)) (regOfBits (sr1Field w)) (offset6Field w) := by rw [decode, h]; rfl

theorem decode_of_trap (h : opcodeField w = Config.OPC_TRAP) : decode w = decodeTrap (vect8Field w) := by
  rw [decode, h]; rfl

theorem decode_of_res8 (h : opcodeField w = Config.OPC_RES8) : decode w = .res8 := by rw [decode, h]; rfl

theorem decode_of_res13 (h : opcodeField w = Config.OPC_RES13) : decode w = .res13 := by rw [decode, h]; rfl

theorem Instr.wf_ite {c : Prop} [Decidable c] {i j : Instr} (hi : i.wf = true) (hj : j.wf = true) :
    (if c then i else j).wf = true := by
  split
  · exact hi
  · exact hj

/-- Every word's instruction is well formed: in each of the sixteen cases of its opcode (R109). -/
theorem decode_wf (w : Word) : (decode w).wf = true := by
  unfold decode
  repeat' with_reducible apply Instr.wf_ite
  any_goals rfl
  exact decodeTrap_wf _

end

/-! ## The fields of an instruction's word (R92 to R104) -/

section
open Sys2Proof.Laws

/-- A bit of a placed field. -/
theorem getElem_place {n : Nat} (f : BitVec n) (lo k : Nat) (hk : k < 16) :
    (place f lo)[k] = (!decide (k < lo) && f.getLsbD (k - lo)) := by
  simp [place]

variable (op : BitVec 4) (dr sr1 sr2 base : Reg)

@[simp] theorem drField_encodeOpr : drField (encodeOpr op dr sr1 sr2) = bitsOfReg dr := by
  simp [drField, encodeOpr, BitVec.extractLsb'_or, extract_place_same, extract_place_below, extract_place_above]

@[simp] theorem sr1Field_encodeOpr : sr1Field (encodeOpr op dr sr1 sr2) = bitsOfReg sr1 := by
  simp [sr1Field, encodeOpr, BitVec.extractLsb'_or, extract_place_same, extract_place_below, extract_place_above]

@[simp] theorem sr2Field_encodeOpr : sr2Field (encodeOpr op dr sr1 sr2) = bitsOfReg sr2 := by
  simp [sr2Field, encodeOpr, BitVec.extractLsb'_or, extract_place_same, extract_place_above]

theorem immediateBit_encodeOpr : immediateBit (encodeOpr op dr sr1 sr2) = false := by
  simp [immediateBit, encodeOpr, getElem_place]

@[simp] theorem drField_encodeOpi (imm5 : BitVec 5) : drField (encodeOpi op dr sr1 imm5) = bitsOfReg dr := by
  simp [drField, encodeOpi, BitVec.extractLsb'_or, extract_place_same, extract_place_below, extract_place_above]

@[simp] theorem sr1Field_encodeOpi (imm5 : BitVec 5) : sr1Field (encodeOpi op dr sr1 imm5) = bitsOfReg sr1 := by
  simp [sr1Field, encodeOpi, BitVec.extractLsb'_or, extract_place_same, extract_place_below, extract_place_above]

@[simp] theorem imm5Field_encodeOpi (imm5 : BitVec 5) : imm5Field (encodeOpi op dr sr1 imm5) = imm5 := by
  simp [imm5Field, encodeOpi, BitVec.extractLsb'_or, extract_place_same, extract_place_above]

theorem immediateBit_encodeOpi (imm5 : BitVec 5) : immediateBit (encodeOpi op dr sr1 imm5) = true := by
  simp [immediateBit, encodeOpi, getElem_place]

@[simp] theorem drField_encodePcRel (off : BitVec 9) : drField (encodePcRel op dr off) = bitsOfReg dr := by
  simp [drField, encodePcRel, BitVec.extractLsb'_or, extract_place_same, extract_place_below, extract_place_above]

@[simp] theorem offset9Field_encodePcRel (off : BitVec 9) : offset9Field (encodePcRel op dr off) = off := by
  simp [offset9Field, encodePcRel, BitVec.extractLsb'_or, extract_place_same, extract_place_above]

@[simp] theorem drField_encodeBase (off : BitVec 6) : drField (encodeBase op dr base off) = bitsOfReg dr := by
  simp [drField, encodeBase, BitVec.extractLsb'_or, extract_place_same, extract_place_below, extract_place_above]

@[simp] theorem sr1Field_encodeBase (off : BitVec 6) : sr1Field (encodeBase op dr base off) = bitsOfReg base := by
  simp [sr1Field, encodeBase, BitVec.extractLsb'_or, extract_place_same, extract_place_below, extract_place_above]

@[simp] theorem offset6Field_encodeBase (off : BitVec 6) : offset6Field (encodeBase op dr base off) = off := by
  simp [offset6Field, encodeBase, BitVec.extractLsb'_or, extract_place_same, extract_place_above]

/-- TRAP's word decodes by its selector, whatever the selector. -/
theorem decode_encodeTrap (v : BitVec 8) : decode (encodeTrap v) = decodeTrap v := by
  have hvect8 : vect8Field (encodeTrap v) = v := by
    simp [vect8Field, encodeTrap, BitVec.extractLsb'_or, extract_place_same, extract_place_above]
  rw [decode_of_trap (opcodeField_encodeTrap v), hvect8]

/-- Settles O1, row by row: the word carries the row's opcode and mode bit, and its fields are the instruction's operands. -/
theorem decodeOfEncodeIsTheInstruction : Obligations.DecodeOfEncodeIsTheInstruction := by
  intro i hwf
  cases i with
  | addReg dr sr1 sr2 =>
    rw [decode_of_add_register (OpcodeNibble.addReg dr sr1 sr2) (immediateBit_encodeOpr _ _ _ _)]
    simp [encode]
  | addImm dr sr1 imm5 =>
    rw [decode_of_add_immediate (OpcodeNibble.addImm dr sr1 imm5) (immediateBit_encodeOpi _ _ _ _)]
    simp [encode]
  | andReg dr sr1 sr2 =>
    rw [decode_of_and_register (OpcodeNibble.andReg dr sr1 sr2) (immediateBit_encodeOpr _ _ _ _)]
    simp [encode]
  | andImm dr sr1 imm5 =>
    rw [decode_of_and_immediate (OpcodeNibble.andImm dr sr1 imm5) (immediateBit_encodeOpi _ _ _ _)]
    simp [encode]
  | not dr sr =>
    rw [decode_of_not (OpcodeNibble.not dr sr)]
    simp [encode, drField, sr1Field, BitVec.extractLsb'_or, extract_place_same, extract_place_below, extract_place_above]
  | br mask off =>
    rw [decode_of_br (OpcodeNibble.br mask off)]
    simp [encode, maskField, offset9Field, BitVec.extractLsb'_or, extract_place_same, extract_place_below, extract_place_above]
  | jmp base =>
    rw [decode_of_jmp (OpcodeNibble.jmp base)]
    simp [encode, sr1Field, BitVec.extractLsb'_or, extract_place_same, extract_place_above]
  | jsr off =>
    have hmode : longBit (encode (.jsr off)) = true := by simp [longBit, encode, getElem_place]
    rw [decode_of_jsr_long (OpcodeNibble.jsr off) hmode]
    simp [encode, offset11Field, BitVec.extractLsb'_or, extract_place_same, extract_place_above]
  | jsrr base =>
    have hmode : longBit (encode (.jsrr base)) = false := by simp [longBit, encode, getElem_place]
    rw [decode_of_jsr_register (OpcodeNibble.jsrr base) hmode]
    simp [encode, sr1Field, BitVec.extractLsb'_or, extract_place_same, extract_place_above]
  | ld dr off => rw [decode_of_ld (OpcodeNibble.ld dr off)]; simp [encode]
  | ldi dr off => rw [decode_of_ldi (OpcodeNibble.ldi dr off)]; simp [encode]
  | ldr dr base off => rw [decode_of_ldr (OpcodeNibble.ldr dr base off)]; simp [encode]
  | lea dr off => rw [decode_of_lea (OpcodeNibble.lea dr off)]; simp [encode]
  | st sr off => rw [decode_of_st (OpcodeNibble.st sr off)]; simp [encode]
  | sti sr off => rw [decode_of_sti (OpcodeNibble.sti sr off)]; simp [encode]
  | str sr base off => rw [decode_of_str (OpcodeNibble.str sr base off)]; simp [encode]
  | getc | out | puts | inp | putsp | halt => exact decode_encodeTrap _
  | trap v => exact (decode_encodeTrap v).trans (decodeTrap_of_unlisted hwf)
  | res8 => exact decode_of_res8 OpcodeNibble.res8
  | res13 => exact decode_of_res13 OpcodeNibble.res13

end

/-- Settles O2: decoding is total, and what it gives is well formed, so that O1 applies to it. -/
theorem everyWordIsAnInstructionAndItsCanonicalWordAgrees : Obligations.EveryWordIsAnInstructionAndItsCanonicalWordAgrees :=
  fun w => ⟨decode_wf w, decodeOfEncodeIsTheInstruction (decode w) (decode_wf w)⟩

/-! ## A row's match value under its mask -/

section
variable {w mask value : Word}

/-- A field that the mask covers is the value's field. -/
theorem extract_of_match {lo n : Nat} (h : w &&& mask = value) (hcover : mask.extractLsb' lo n = BitVec.allOnes n) :
    w.extractLsb' lo n = value.extractLsb' lo n := by
  rw [← h, BitVec.extractLsb'_and, hcover, BitVec.and_allOnes]

/-- A bit that the mask covers is the value's bit. -/
theorem getLsbD_of_match {k : Nat} (h : w &&& mask = value) (hcover : mask.getLsbD k = true) :
    w.getLsbD k = value.getLsbD k := by
  rw [← h, BitVec.getLsbD_and, hcover, Bool.and_true]

/-- A row whose mask covers the opcode and the selector is that selector's. -/
theorem decode_of_trap_match (h : w &&& 0xF0FF = value) (hvalue : opcodeField value = Config.OPC_TRAP) :
    decode w = decodeTrap (vect8Field value) := by
  have hop : opcodeField w = opcodeField value := extract_of_match h rfl
  have hvect8 : vect8Field w = vect8Field value := extract_of_match h rfl
  rw [decode_of_trap (hop.trans hvalue), hvect8]

/-- The selectors outside the six, read off the low byte of the word. -/
theorem unlistedSelector_vect8Field (h : w.toNat % 256 < 0x20 ∨ 0x25 < w.toNat % 256) :
    unlistedSelector (vect8Field w) = true := by
  have hvect8 : (vect8Field w).toNat = w.toNat % 256 := by simp [vect8Field, BitVec.extractLsb'_toNat]
  rwa [unlistedSelector_iff, hvect8]

end

/-- Settles O3, row by row: the row's value gives the opcode, and the mode bit or the selector where the mask covers one. -/
theorem decodeFollowsTheOpcodeTable : Obligations.DecodeFollowsTheOpcodeTable := by
  intro w
  exact ⟨fun h => decode_of_add_register (extract_of_match h rfl) (getLsbD_of_match h rfl),
    fun h => decode_of_add_immediate (extract_of_match h rfl) (getLsbD_of_match h rfl),
    fun h => decode_of_and_register (extract_of_match h rfl) (getLsbD_of_match h rfl),
    fun h => decode_of_and_immediate (extract_of_match h rfl) (getLsbD_of_match h rfl),
    fun h => decode_of_not (extract_of_match h rfl),
    fun h => decode_of_br (extract_of_match h rfl),
    fun h => decode_of_jmp (extract_of_match h rfl),
    fun h => decode_of_jsr_long (extract_of_match h rfl) (getLsbD_of_match h rfl),
    fun h => decode_of_jsr_register (extract_of_match h rfl) (getLsbD_of_match h rfl),
    fun h => decode_of_ld (extract_of_match h rfl),
    fun h => decode_of_ldi (extract_of_match h rfl),
    fun h => decode_of_ldr (extract_of_match h rfl),
    fun h => decode_of_lea (extract_of_match h rfl),
    fun h => decode_of_st (extract_of_match h rfl),
    fun h => decode_of_sti (extract_of_match h rfl),
    fun h => decode_of_str (extract_of_match h rfl),
    fun h => decode_of_trap_match h rfl,
    fun h => decode_of_trap_match h rfl,
    fun h => decode_of_trap_match h rfl,
    fun h => decode_of_trap_match h rfl,
    fun h => decode_of_trap_match h rfl,
    fun h => decode_of_trap_match h rfl,
    fun h hv => (decode_of_trap (extract_of_match h rfl)).trans (decodeTrap_of_unlisted (unlistedSelector_vect8Field hv)),
    fun h => decode_of_res8 (extract_of_match h rfl),
    fun h => decode_of_res13 (extract_of_match h rfl)⟩

/-- Settles O4: the eight words, each decoded. -/
theorem writtenOutWordsDecode : Obligations.WrittenOutWordsDecode := by
  unfold Obligations.WrittenOutWordsDecode
  decide

end Sys2Proof
end

section
/-! SUPPORT. Sign extension as a number (00_scope.md rule R16) and the register file (10_state.md rule R22). -/

namespace Sys2Proof.Machine

/-- Sign extension from `w` bits to at least as many: the number itself below half the range, and else `2^n - 2^w` more. -/
theorem toNat_signExtend_of_le {w n : Nat} (h : w ≤ n) (field : BitVec w) :
    (field.signExtend n).toNat = if field.toNat < 2 ^ (w - 1) then field.toNat else field.toNat + (2 ^ n - 2 ^ w) := by
  have hmsb : field.msb = decide (2 ^ (w - 1) ≤ field.toNat) := BitVec.msb_eq_decide field
  have hfield : field.toNat % 2 ^ n = field.toNat :=
    Nat.mod_eq_of_lt (field.isLt.trans_le (Nat.pow_le_pow_right (by decide) h))
  rw [BitVec.toNat_signExtend, BitVec.toNat_setWidth, hfield, hmsb]
  by_cases hlt : field.toNat < 2 ^ (w - 1)
  · simp [hlt]
  · simp [hlt, Nat.le_of_not_lt hlt]

/-- Settles O6: each `sext_N` is the sign extension of its width to 16 bits. -/
theorem signExtensionIsTheSignedReading : Obligations.SignExtensionIsTheSignedReading :=
  ⟨toNat_signExtend_of_le (by decide), toNat_signExtend_of_le (by decide),
    toNat_signExtend_of_le (by decide), toNat_signExtend_of_le (by decide)⟩

/-- Settles O7: the register file reads back what was written, and a write to one cell leaves the other seven alone. -/
theorem registersAreEightIndependentCells : Obligations.RegistersAreEightIndependentCells :=
  fun s i _ v => ⟨s.setReg_reg_same i v, fun h => s.setReg_reg_of_ne v h.symm⟩

end Sys2Proof.Machine
end

section
/-! SUPPORT. Canonical memory (log entry 3): the words it reads determine the list. -/

namespace Sys2Proof.Machine

/-- A canonical list reads as unlisted below its lower bound. -/
theorem readWord_of_lt {lo : Nat} {m : Memory} (hm : wfFrom lo m = true) {a : Word} (h : a.toNat < lo) :
    readWord m a = unlistedWord := by
  induction m generalizing lo with
  | nil => rfl
  | cons c rest ih =>
    obtain ⟨k, v⟩ := c
    obtain ⟨hk, -, -, hrest⟩ := wfFrom_cons.1 hm
    rw [readWord, if_neg (by omega)]
    exact ih hrest (by omega)

/-- The first listed address reads the first listed word. -/
theorem readWord_head {lo k : Nat} {v : Word} {rest : Memory} (hm : wfFrom lo ((k, v) :: rest) = true) :
    readWord ((k, v) :: rest) (BitVec.ofNat 16 k) = v := by
  obtain ⟨-, hk, -, -⟩ := wfFrom_cons.1 hm
  exact if_pos (Nat.mod_eq_of_lt hk).symm

/-- After its first listed word a canonical list reads as the rest of it does, and there the rest reads as unlisted. -/
theorem readWord_tail {lo k : Nat} {v : Word} {rest : Memory} (hm : wfFrom lo ((k, v) :: rest) = true) (a : Word) :
    readWord rest a = if a.toNat = k then unlistedWord else readWord ((k, v) :: rest) a := by
  obtain ⟨-, -, -, hrest⟩ := wfFrom_cons.1 hm
  by_cases ha : a.toNat = k
  · rw [if_pos ha, readWord_of_lt hrest (by omega)]
  · rw [if_neg ha, readWord, if_neg (Ne.symm ha)]

/-- Where one of two lists that read alike first lists a word, the other has begun to list: the word is not the unlisted one. -/
theorem lowerBound_le_of_reads_alike {lo lo' k : Nat} {v : Word} {rest m' : Memory}
    (hm : wfFrom lo ((k, v) :: rest) = true) (hm' : wfFrom lo' m' = true)
    (h : ∀ a, readWord ((k, v) :: rest) a = readWord m' a) : lo' ≤ k := by
  obtain ⟨-, hk, hv, -⟩ := wfFrom_cons.1 hm
  have hnat : (BitVec.ofNat 16 k).toNat = k := Nat.mod_eq_of_lt hk
  by_contra hlt
  refine hv ?_
  calc v = readWord ((k, v) :: rest) (BitVec.ofNat 16 k) := (readWord_head hm).symm
    _ = readWord m' (BitVec.ofNat 16 k) := h _
    _ = unlistedWord := readWord_of_lt hm' (by omega)

/-- Two canonical lists that read alike are equal: they begin at the same address with the same word, and their rests read
alike. -/
theorem eq_of_reads_alike {lo lo' : Nat} {m m' : Memory} (hm : wfFrom lo m = true) (hm' : wfFrom lo' m' = true)
    (h : ∀ a, readWord m a = readWord m' a) : m = m' := by
  induction m generalizing lo lo' m' with
  | nil =>
    cases m' with
    | nil => rfl
    | cons c' rest' => exact absurd (lowerBound_le_of_reads_alike (lo' := c'.1 + 1) hm' rfl fun a => (h a).symm) (by omega)
  | cons c rest ih =>
    obtain ⟨k, v⟩ := c
    obtain ⟨-, hk, hv, hrest⟩ := wfFrom_cons.1 hm
    cases m' with
    | nil => exact absurd (lowerBound_le_of_reads_alike (lo' := k + 1) hm rfl h) (by omega)
    | cons c' rest' =>
      obtain ⟨k', v'⟩ := c'
      obtain ⟨-, hk', hv', hrest'⟩ := wfFrom_cons.1 hm'
      have hle : k' ≤ k := lowerBound_le_of_reads_alike hm (wfFrom_cons.2 ⟨le_rfl, hk', hv', hrest'⟩) h
      have hge : k ≤ k' := lowerBound_le_of_reads_alike hm' (wfFrom_cons.2 ⟨le_rfl, hk, hv, hrest⟩) fun a => (h a).symm
      obtain rfl : k = k' := le_antisymm hge hle
      have hword : v = v' := by rw [← readWord_head hm, h, readWord_head hm']
      have htail : rest = rest' := ih hrest hrest' fun a => by rw [readWord_tail hm, readWord_tail hm', h]
      rw [hword, htail]

/-- Settles O12: the general lemma, from the lowest address on. -/
theorem memoriesThatReadAlikeAreEqual : Obligations.MemoriesThatReadAlikeAreEqual :=
  fun _ _ hm hm' h => eq_of_reads_alike hm hm' h

end Sys2Proof.Machine
end

section
/-! SUPPORT. The read port (20_memory.md section 2): what a poll leaves in the device words, with a byte and without, and the one
stream that polls and blocking reads share. -/

namespace Sys2Proof.Machine

variable {s s' : State}

/-- A latched poll leaves every word alone but the device words (R55). -/
theorem latchPoll_word_of_ne (p : Option Byte × State) {a : Word} (hkbsr : a ≠ Config.KBSR_ADDR)
    (hkbdr : a ≠ Config.KBDR_ADDR) : (latchPoll p).word a = p.2.word a := by
  obtain ⟨_ | b, s⟩ := p
  · exact s.setWord_word_of_ne _ hkbsr
  · exact (State.setWord_word_of_ne _ _ hkbdr).trans (s.setWord_word_of_ne _ hkbsr)

/-- The status word after a poll: 0x8000 with a byte, 0 without (R52). -/
theorem latchPoll_word_kbsr (p : Option Byte × State) :
    (latchPoll p).word Config.KBSR_ADDR = if p.1.isSome then 0x8000 else 0x0000 := by
  obtain ⟨_ | b, s⟩ := p
  · exact s.setWord_word_same _ _
  · exact (State.setWord_word_of_ne _ _ (by decide)).trans (s.setWord_word_same _ _)

/-- A poll's asking touches no word of memory. -/
theorem State.kbdPoll_word (s : State) (a : Word) : s.kbdPoll.2.word a = s.word a := by
  rw [s.kbdPoll_snd, State.word, s.draw_mem, State.word]

/-- A read through the read port leaves every word alone but the device words (R52, R53). -/
theorem State.memRead_word (s : State) (a : Word) {b : Word} (hkbsr : b ≠ Config.KBSR_ADDR) (hkbdr : b ≠ Config.KBDR_ADDR) :
    (s.memRead a).2.word b = s.word b := by
  by_cases h : a = Config.KBSR_ADDR
  · subst h
    exact (latchPoll_word_of_ne s.kbdPoll hkbsr hkbdr).trans (s.kbdPoll_word b)
  · rw [s.memRead_of_ne h]

/-- The data word after a poll: the byte zero-extended, or what it was (R52, R55). -/
theorem latchPoll_word_kbdr (p : Option Byte × State) :
    (latchPoll p).word Config.KBDR_ADDR = (p.1.map zext8).getD (p.2.word Config.KBDR_ADDR) := by
  obtain ⟨_ | b, s⟩ := p
  · exact s.setWord_word_of_ne _ (by decide)
  · exact State.setWord_word_same _ _ _

theorem zext8_toNat (b : Byte) : (zext8 b).toNat = b.toNat := by
  rw [zext8, BitVec.toNat_setWidth, Nat.mod_eq_of_lt (by omega)]

/-- All that a read of the status word leaves alone, and that it asks the environment once. -/
theorem State.memRead_kbsr_kept (h : s.kbdPoll.2 = s') :
    RegsKept s (s.memRead Config.KBSR_ADDR).2 ∧ (s.memRead Config.KBSR_ADDR).2.pc = s.pc ∧
      (s.memRead Config.KBSR_ADDR).2.cond = s.cond ∧ (s.memRead Config.KBSR_ADDR).2.output = s.output ∧
      (s.memRead Config.KBSR_ADDR).2.halted = s.halted ∧ (s.memRead Config.KBSR_ADDR).2.busy = s.busy ∧
      InputKept s' (s.memRead Config.KBSR_ADDR).2 := by
  rw [s.kbdPoll_snd] at h
  exact ⟨s.memRead_reg _, s.memRead_pc _, s.memRead_cond _, s.memRead_output _, s.memRead_halted _, s.memRead_busy _,
    h ▸ State.memRead_kbsr_inputKept⟩

/-- Settles O9: with a byte and without, the device words are those of the latched poll and nothing else is touched; and a read of
any other address is the plain lookup. -/
theorem readPortPollsAtTheStatusWord : Obligations.ReadPortPollsAtTheStatusWord := by
  refine fun s => ⟨fun b s' h => ?_, fun s' h => ?_, fun a ha => s.memRead_of_ne ha⟩
  · have hread : s.memRead Config.KBSR_ADDR = (0x8000, latchPoll (some b, s')) := by
      rw [s.memRead_kbsr, h, latchPoll_word_kbsr]; rfl
    have hkept := State.memRead_kbsr_kept (congrArg Prod.snd h)
    have hother := fun a => s.memRead_word Config.KBSR_ADDR (b := a)
    rw [hread] at hkept hother
    refine ⟨_, hread, latchPoll_word_kbsr _, ?_, hother, hkept⟩
    rw [latchPoll_word_kbdr]
    exact zext8_toNat b
  · have hread : s.memRead Config.KBSR_ADDR = (0x0000, latchPoll (none, s')) := by
      rw [s.memRead_kbsr, h, latchPoll_word_kbsr]; rfl
    have hkept := State.memRead_kbsr_kept (congrArg Prod.snd h)
    rw [hread] at hkept
    refine ⟨_, hread, latchPoll_word_kbsr _, fun a ha => ?_, hkept⟩
    have hpoll := s.kbdPoll_word a
    rw [h] at hpoll
    exact (s'.setWord_word_of_ne _ ha).trans hpoll

/-- Settles O11: a read of the status word gives what its poll leaves there, whatever was stored. -/
theorem storedStatusWordIsNeverReadBack : Obligations.StoredStatusWordIsNeverReadBack :=
  fun s v => (s.memWrite Config.KBSR_ADDR v).memRead_kbsr_value

/-- A poll and a blocking read ask alike, and both give the byte if there is one. -/
theorem State.kbdPoll_eq_charIn (s : State) : s.kbdPoll = s.charIn := by
  unfold State.kbdPoll State.charIn
  split <;> rfl

/-- Settles O13: a poll is a blocking read tried once, and the next answer written out decides what both give. -/
theorem pollsAndBlockingReadsShareOneStream : Obligations.PollsAndBlockingReadsShareOneStream := by
  refine fun s rest => ⟨fun b h => ?_, fun h => ?_, fun h => ?_, s.kbdPoll_eq_charIn⟩
  all_goals
    rw [← s.kbdPoll_eq_charIn, and_self, State.kbdPoll, State.draw, h]

end Sys2Proof.Machine
end

section
/-! SUPPORT. The operate instructions and LEA (41_operate.md, 43_load.md): what the shared ending `x[dr] <- v`, `SetCC(dr)` does
and keeps. -/

namespace Sys2Proof.Machine

section
variable (s : State) (dr : Reg) (v : Word)

theorem State.setRegCC_flagDescribes : FlagDescribes (s.setRegCC dr v).cond ((s.setRegCC dr v).reg dr) := by
  rw [s.setRegCC_cond_value, s.setRegCC_reg_same]
  exact flagDescribes_flagOf v

theorem State.setRegCC_regsKeptBut : RegsKeptBut dr s (s.setRegCC dr v) := fun _ h => s.setRegCC_reg_of_ne v h

theorem State.setRegCC_outsideKept : OutsideKept s (s.setRegCC dr v) where
  memory a := s.setRegCC_word dr v a
  input := ⟨s.setRegCC_input dr v, s.setRegCC_draws dr v⟩
  output := s.setRegCC_output dr v
  halted := s.setRegCC_halted dr v
  busy := s.setRegCC_busy dr v

/-- How an instruction of the flag-writing set that reads no memory ends: the value's flag, and the frame. -/
theorem State.setRegCC_ending :
    FlagDescribes (s.setRegCC dr v).cond ((s.setRegCC dr v).reg dr) ∧ RegsKeptBut dr s (s.setRegCC dr v) ∧
      (s.setRegCC dr v).pc = s.pc ∧ OutsideKept s (s.setRegCC dr v) :=
  ⟨s.setRegCC_flagDescribes dr v, s.setRegCC_regsKeptBut dr v, s.setRegCC_pc dr v, s.setRegCC_outsideKept dr v⟩

end

/-- Settles O14: a sum of words is the sum of the numbers modulo 65536. -/
theorem addWritesTheSumModulo65536 : Obligations.AddWritesTheSumModulo65536 := by
  refine fun dr sr1 s => ⟨fun sr2 => ⟨_, exec_addReg s dr sr1 sr2, ?_, s.setRegCC_ending dr _⟩,
    fun imm5 => ⟨_, exec_addImm s dr sr1 imm5, ?_, s.setRegCC_ending dr _⟩⟩
  all_goals
    rw [s.setRegCC_reg_same]
    exact BitVec.toNat_add _ _

/-- From its sign bit on, every bit of a sign-extended imm5 is the sign bit (R105). -/
theorem getLsbD_sext5 (imm5 : BitVec 5) {k : Nat} (hk : k < 16) : (sext5 imm5).getLsbD k = imm5.getLsbD (min k 4) := by
  rw [sext5, BitVec.getLsbD_signExtend]
  by_cases h : k < 5
  · rw [show min k 4 = k by omega]
    simp [h, hk]
  · rw [show min k 4 = 4 by omega]
    simp [h, hk, BitVec.msb_eq_getLsbD_last]

/-- Settles O15: bit by bit, with the bits of the sign-extended immediate. -/
theorem andWritesTheBitwiseAnd : Obligations.AndWritesTheBitwiseAnd := by
  refine fun dr sr1 s => ⟨fun sr2 => ⟨_, exec_andReg s dr sr1 sr2, fun k hk => ?_, s.setRegCC_ending dr _⟩,
    fun imm5 => ⟨_, exec_andImm s dr sr1 imm5, fun k hk => ?_, s.setRegCC_ending dr _⟩⟩
  · rw [s.setRegCC_reg_same, BitVec.getLsbD_and]
  · rw [s.setRegCC_reg_same, BitVec.getLsbD_and, getLsbD_sext5 imm5 hk]

/-- Settles O16: the complement of a word is 65535 less the number. -/
theorem notWritesTheComplement : Obligations.NotWritesTheComplement := by
  refine fun dr sr s => ⟨_, exec_not s dr sr, ?_, s.setRegCC_ending dr _⟩
  rw [s.setRegCC_reg_same]
  exact BitVec.toNat_not

/-- Settles O23: the address goes through no port. -/
theorem leaWritesTheAddress : Obligations.LeaWritesTheAddress :=
  fun dr off s => ⟨_, exec_lea s dr off, s.setRegCC_reg_same dr _, s.setRegCC_ending dr _⟩

end Sys2Proof.Machine
end

section
/-! SUPPORT. Control transfer (42_control.md): BR by its mask, JMP, JSR and JSRR. -/

namespace Sys2Proof.Machine

section
variable (s : State) (v : Word)

/-- Writing `pc` touches nothing else. -/
theorem State.setPc_outsideKept : OutsideKept s (s.setPc v) := ⟨fun _ => rfl, ⟨rfl, rfl⟩, rfl, rfl, rfl⟩

/-- Writing a register and then `pc` touches neither memory nor a stream. -/
theorem State.setReg_setPc_outsideKept (i : Reg) (u : Word) : OutsideKept s ((s.setReg i u).setPc v) :=
  ⟨fun _ => rfl, ⟨rfl, rfl⟩, rfl, rfl, rfl⟩

theorem OutsideKept.refl : OutsideKept s s := ⟨fun _ => rfl, ⟨rfl, rfl⟩, rfl, rfl, rfl⟩

end

/-- BR is taken exactly when some bit below 3 is set in the mask and in COND (R171). -/
theorem branchTaken_iff (mask : BitVec 3) (cond : Word) :
    branchTaken mask cond = true ↔ ∃ k < 3, mask.getLsbD k = true ∧ cond.getLsbD k = true := by
  have hbit : ∀ k < 3, (mask &&& cond.extractLsb' 0 3).getLsbD k = (mask.getLsbD k && cond.getLsbD k) := by
    intro k hk
    simp [hk]
  rw [branchTaken, bne_iff_ne, Ne, BitVec.eq_of_getLsbD_eq_iff]
  constructor
  · intro h
    by_contra hno
    refine h fun k hk => ?_
    rw [hbit k hk, show BitVec.getLsbD (0 : BitVec 3) k = false from BitVec.getLsbD_zero, Bool.and_eq_false_imp]
    exact fun hmask => Bool.eq_false_iff.mpr fun hcond => hno ⟨k, hk, hmask, hcond⟩
  · rintro ⟨k, hk, hmask, hcond⟩ h
    have hzero := h k hk
    rw [hbit k hk, hmask, hcond] at hzero
    simp at hzero

theorem exec_br_of_taken {mask : BitVec 3} {off : BitVec 9} {s : State} (h : branchTaken mask s.cond = true) :
    exec (.br mask off) s = .next (s.setPc (s.pcRel9 off)) := by rw [exec_br, if_pos h]

theorem exec_br_of_not_taken {mask : BitVec 3} {off : BitVec 9} {s : State} (h : ¬ branchTaken mask s.cond = true) :
    exec (.br mask off) s = .next s := by rw [exec_br, if_neg h]

/-- Settles O17: the two conditions are those of taking the branch and of not taking it. -/
theorem branchIsTakenWhenMaskMeetsCond : Obligations.BranchIsTakenWhenMaskMeetsCond := by
  intro mask off s
  by_cases h : branchTaken mask s.cond = true
  · refine ⟨_, exec_br_of_taken h, fun _ => rfl, fun hno => ?_, rfl, fun _ => rfl, s.setPc_outsideKept _⟩
    obtain ⟨k, hk, hmask, hcond⟩ := (branchTaken_iff mask s.cond).mp h
    rw [hno k hk hmask] at hcond
    cases hcond
  · exact ⟨s, exec_br_of_not_taken h, fun hex => absurd ((branchTaken_iff mask s.cond).mpr hex) h, fun _ => rfl, rfl,
      fun _ => rfl, .refl s⟩

/-- A flag has one bit, so one bit of the mask decides (R173). -/
theorem branchTaken_FL_NEG (mask : BitVec 3) : branchTaken mask Config.FL_NEG = mask.getLsbD 2 := by
  revert mask; decide

theorem branchTaken_FL_ZRO (mask : BitVec 3) : branchTaken mask Config.FL_ZRO = mask.getLsbD 1 := by
  revert mask; decide

theorem branchTaken_FL_POS (mask : BitVec 3) : branchTaken mask Config.FL_POS = mask.getLsbD 0 := by
  revert mask; decide

/-- Where BR leaves `pc`. -/
theorem exec_br_pc (mask : BitVec 3) (off : BitVec 9) (s : State) :
    (if branchTaken mask s.cond then s.setPc (s.pcRel9 off) else s).pc =
      if branchTaken mask s.cond then s.pc + off.signExtend 16 else s.pc := by
  split <;> rfl

/-- Settles O18: each flag picks its bit of the mask; the mask 000 has none and 111 all three. -/
theorem eightBranchMasks : Obligations.EightBranchMasks := by
  intro mask off s hlegal
  refine ⟨_, exec_br s mask off, fun h => ?_, fun h => ?_, fun h => ?_, fun h => ?_, fun h => ?_⟩
  · rw [exec_br_pc, h, branchTaken_FL_NEG]
  · rw [exec_br_pc, h, branchTaken_FL_ZRO]
  · rw [exec_br_pc, h, branchTaken_FL_POS]
  · rw [h]
    exact Host.Outcome.next.inj (exec_br_zero off s)
  · have htaken : branchTaken mask s.cond = true := by
      rw [h]
      rcases hlegal with hc | hc | hc <;> rw [hc] <;> decide
    rw [exec_br_pc, if_pos htaken]

/-- Settles O19: JMP writes `pc` alone. -/
theorem jmpLoadsPcFromTheBase : Obligations.JmpLoadsPcFromTheBase :=
  fun base s => ⟨_, exec_jmp s base, rfl, rfl, fun _ => rfl, s.setPc_outsideKept _⟩

/-- Settles O20: both save the PC in R7 first, so the base R7 reads what was saved. -/
theorem jsrSavesPcInR7First : Obligations.JsrSavesPcInR7First := by
  intro s
  have hkept : ∀ v, RegsKeptBut .r7 s ((s.setReg .r7 s.pc).setPc v) := fun _ _ hr => s.setReg_reg_of_ne s.pc hr
  refine ⟨fun off => ⟨_, exec_jsr s off, s.setReg_reg_same .r7 s.pc, rfl, rfl, hkept _, s.setReg_setPc_outsideKept _ _ _⟩,
    fun base => ⟨_, exec_jsrr s base, s.setReg_reg_same .r7 s.pc, fun hb => s.setReg_reg_of_ne s.pc hb, ?_, rfl, hkept _,
      s.setReg_setPc_outsideKept _ _ _⟩⟩
  rintro rfl
  exact s.setReg_reg_same .r7 s.pc

end Sys2Proof.Machine
end

section
/-! SUPPORT. Loads and stores (43_load.md, 44_store.md): what one read through the read port may change, and what one store
changes. -/

namespace Sys2Proof.Machine

/-! ## Loads -/

/-- A read through the read port does what the read port may do. -/
theorem State.memRead_effect (s : State) (a : Word) : ReadPortEffect a s (s.memRead a).2 where
  memory b hb := by
    by_cases h : a = Config.KBSR_ADDR
    · exact s.memRead_word a (hb h).1 (hb h).2
    · rw [s.memRead_of_ne h]
  devices _ _ := rfl
  input := by
    split
    · next h => subst h; exact (State.memRead_kbsr_inputKept (s := s)).1
    · next h => exact (State.memRead_inputKept h).1
  draws := by
    split
    · next h => subst h; exact (State.memRead_kbsr_inputKept (s := s)).2
    · next h => exact (State.memRead_inputKept h).2
  output := s.memRead_output a
  halted := s.memRead_halted a
  busy := s.memRead_busy a

/-- A read's word is the stored word, except at the status word (R53). -/
theorem State.memRead_fst_of_ne (s : State) {a : Word} (h : a ≠ Config.KBSR_ADDR) : (s.memRead a).1 = s.word a := by
  rw [s.memRead_of_ne h]

section
variable (s : State) (dr : Reg) (ea : Word)

theorem State.loadFrom_reg_same : (s.loadFrom dr ea).reg dr = (s.memRead ea).1 :=
  (s.memRead ea).2.setRegCC_reg_same dr _

/-- A load's register write is outside what the read port may change. -/
theorem State.loadFrom_effect : ReadPortEffect ea s (s.loadFrom dr ea) :=
  have ⟨memory, devices, input, draws, output, halted, busy⟩ := s.memRead_effect ea
  ⟨memory, devices, input, draws, output, halted, busy⟩

/-- How LD, LDI and LDR end: the word the read port gives, its flag, and the frame. -/
theorem State.loadFrom_ending :
    (s.loadFrom dr ea).reg dr = (s.memRead ea).1 ∧ (ea ≠ Config.KBSR_ADDR → (s.loadFrom dr ea).reg dr = s.word ea) ∧
      FlagDescribes (s.loadFrom dr ea).cond ((s.loadFrom dr ea).reg dr) ∧ RegsKeptBut dr s (s.loadFrom dr ea) ∧
      (s.loadFrom dr ea).pc = s.pc ∧ ReadPortEffect ea s (s.loadFrom dr ea) :=
  ⟨s.loadFrom_reg_same dr ea, fun h => (s.loadFrom_reg_same dr ea).trans (s.memRead_fst_of_ne h),
    (s.memRead ea).2.setRegCC_flagDescribes dr _, fun _ h => s.loadFrom_reg_of_ne ea h, s.loadFrom_pc dr ea,
    s.loadFrom_effect dr ea⟩

end

/-- Settles O21: LD and LDR are the one load, at their addresses. -/
theorem ldAndLdrLoadThroughTheReadPort : Obligations.LdAndLdrLoadThroughTheReadPort :=
  fun dr s => ⟨fun off => ⟨_, exec_ld s dr off, s.loadFrom_ending dr _⟩,
    fun base off => ⟨_, exec_ldr s dr base off, s.loadFrom_ending dr _⟩⟩

/-- Settles O22: LDI is the one load, from the state that the pointer read leaves. -/
theorem ldiLoadsThroughItsPointer : Obligations.LdiLoadsThroughItsPointer := by
  intro dr off s s1 ptr h
  have hptr : ptr = (s.memRead (s.pcRel9 off)).1 := (congrArg Prod.fst h).symm
  have hs1 : s1 = (s.memRead (s.pcRel9 off)).2 := (congrArg Prod.snd h).symm
  subst hptr hs1
  obtain ⟨hreg, hplain, hflag, hregs, hpc, heffect⟩ :=
    (s.memRead (s.pcRel9 off)).2.loadFrom_ending dr (s.memRead (s.pcRel9 off)).1
  exact ⟨_, exec_ldi s dr off, hreg, fun hne => s.memRead_fst_of_ne hne, hplain, hflag,
    fun r hr => (hregs r hr).trans (s.memRead_reg _ r), hpc.trans (s.memRead_pc _), s.memRead_effect _, heffect⟩

/-! ## Stores -/

/-- A stored word that the next fetch reads is what was stored, except at the status word (R70). -/
theorem State.memWrite_fetched (s : State) {a : Word} (v : Word) (ha : a = (s.memWrite a v).pc)
    (hplain : (s.memWrite a v).pc ≠ Config.KBSR_ADDR) : (s.memWrite a v).fetched = v := by
  rw [State.fetched, State.memRead_fst_of_ne _ hplain, ← ha]
  exact s.setWord_word_same a v

/-- All that a store changes and leaves alone, and what is fetched after it. -/
theorem State.memWrite_ending (s : State) (a v : Word) :
    (s.memWrite a v).word a = v ∧ (∀ b, b ≠ a → (s.memWrite a v).word b = s.word b) ∧ RegsKept s (s.memWrite a v) ∧
      (s.memWrite a v).pc = s.pc ∧ (s.memWrite a v).cond = s.cond ∧ (s.memWrite a v).output = s.output ∧
      InputKept s (s.memWrite a v) ∧ (s.memWrite a v).halted = s.halted ∧ (s.memWrite a v).busy = s.busy ∧
      (a = (s.memWrite a v).pc → (s.memWrite a v).pc ≠ Config.KBSR_ADDR → (s.memWrite a v).fetched = v) := by
  obtain ⟨hword, hother, hregs, hpc, hcond, hout, hhalted, hbusy, hinput⟩ := writePortIsPlainStorage s a v
  exact ⟨hword, hother, hregs, hpc, hcond, hout, hinput, hhalted, hbusy, s.memWrite_fetched v⟩

/-- Settles O24: ST and STR are the one store, at their addresses; STI is it too, from the state its pointer read leaves. -/
theorem storesWriteOneWholeWord : Obligations.StoresWriteOneWholeWord := by
  refine fun sr s => ⟨fun off => ⟨_, exec_st s sr off, s.memWrite_ending _ _⟩,
    fun base off => ⟨_, exec_str s sr base off, s.memWrite_ending _ _⟩, fun off ptr s1 h => ?_⟩
  have hptr : ptr = (s.memRead (s.pcRel9 off)).1 := (congrArg Prod.fst h).symm
  have hs1 : s1 = (s.memRead (s.pcRel9 off)).2 := (congrArg Prod.snd h).symm
  subst hptr hs1
  obtain ⟨hword, hother, hregs, hpc, hcond, hout, hinput, hhalted, hbusy, hfetched⟩ :=
    (s.memRead (s.pcRel9 off)).2.memWrite_ending (s.memRead (s.pcRel9 off)).1 (s.reg sr)
  exact ⟨_, exec_sti s sr off, fun hne => s.memRead_fst_of_ne hne, s.memRead_effect _, hword, hother,
    fun r => (hregs r).trans (s.memRead_reg _ r), hpc.trans (s.memRead_pc _), hcond.trans (s.memRead_cond _),
    hout.trans (s.memRead_output _), hinput, hhalted.trans (s.memRead_halted _), hbusy.trans (s.memRead_busy _), hfetched⟩

end Sys2Proof.Machine
end

section
/-! SUPPORT. The trap services but the string ones (45_trap.md), and the reads that go on waiting: what a blocking read that ends
does, and what one that waits does, once for GETC and IN, started or resumed. -/

namespace Sys2Proof.Machine

variable {s t u : State} {c : Byte}

/-! ## A blocking read -/

/-- The next answer depends on the two input fields alone. -/
theorem InputKept.draw_fst (h : InputKept s t) : t.draw.1 = s.draw.1 := by
  obtain ⟨hinput, hdraws⟩ := h
  unfold State.draw
  rw [hinput, hdraws]
  split <;> rfl

/-- What a blocking read gives depends on the two input fields alone. -/
theorem InputKept.charIn_fst (h : InputKept s t) : t.charIn.1 = s.charIn.1 := by
  have hanswer : t.draw.1 = s.draw.1 := h.draw_fst
  revert hanswer
  unfold State.charIn
  rcases s.draw with ⟨answer, s₁⟩
  rcases t.draw with ⟨answer', t₁⟩
  rintro ⟨⟩
  cases answer <;> rfl

/-- A state with the same input reads the same and leaves the same input. -/
theorem InputKept.charIn {s' : State} {b : Option Byte} (h : InputKept s u) (hs : s.charIn = (b, s')) :
    u.charIn.1 = b ∧ InputKept s' u.draw.2 := by
  have hs' : s' = s.draw.2 := by rw [← s.charIn_snd, hs]
  exact ⟨h.charIn_fst.trans (congrArg Prod.fst hs), hs' ▸ h.draw⟩

/-- A byte has no sign bit, so its flag is ZERO or POSITIVE. -/
theorem flagOf_zext8 (c : Byte) : flagOf (zext8 c) = if c = 0 then Config.FL_ZRO else Config.FL_POS := by
  have hzero : c = 0 ↔ c.toNat = 0 := BitVec.toNat_inj.symm
  rw [flagOf_eq, zext8_toNat, if_neg (by omega)]
  simp only [hzero]

/-- A read from `s` has ended in `t` with the byte `c`: R0, its flag, and `echo` on the output (R234, R241). -/
structure ReadEnds (c : Byte) (echo : List Byte) (s t : State) : Prop where
  value : (t.reg .r0).toNat = c.toNat
  regs : RegsKeptBut .r0 s t
  cond : t.cond = if c = 0 then Config.FL_ZRO else Config.FL_POS
  pc : t.pc = s.pc
  memory : MemoryKept s t
  output : t.output = s.output ++ echo
  halted : t.halted = s.halted
  busy : t.busy = none
  input : InputKept s.draw.2 t

/-- A read from `s` goes on waiting in `t`: it has asked, and noted which service waits (R275). -/
structure ReadWaits (service : Service) (s t : State) : Prop where
  regs : RegsKept s t
  cond : t.cond = s.cond
  pc : t.pc = s.pc
  memory : MemoryKept s t
  output : t.output = s.output
  halted : t.halted = s.halted
  busy : t.busy = some service
  input : InputKept s.draw.2 t

@[simp] theorem State.draw_word (s : State) (a : Word) : s.draw.2.word a = s.word a := by rw [State.draw_frame]; rfl

@[simp] theorem State.charsOut_nil (s : State) : s.charsOut [] = s := by simp [State.charsOut]

/-- How GETC and IN end: the echo is written, then R0 and its flag, in the state that asking leaves. -/
theorem State.draw_setRegCC_ends (s : State) (c : Byte) (echo : List Byte) :
    ReadEnds c echo s (((s.draw.2.charsOut echo).setRegCC .r0 (zext8 c)).setBusy none) where
  value := by simpa using zext8_toNat c
  regs r hr := by simp [State.setRegCC_reg_of_ne _ _ hr]
  cond := by simpa using flagOf_zext8 c
  pc := by simp
  memory a := by simp
  output := by simp
  halted := by simp
  busy := rfl
  input := ⟨rfl, rfl⟩

theorem State.getcRead_ends (h : s.charIn.1 = some c) : ReadEnds c [] s s.getcRead := by
  have hends := s.draw_setRegCC_ends c []
  rwa [State.charsOut_nil, ← State.getcRead_of_byte h] at hends

theorem State.inRead_ends (h : s.charIn.1 = some c) : ReadEnds c [c] s s.inRead := by
  rw [State.inRead_of_byte h]
  exact s.draw_setRegCC_ends c [c]

/-- A service waits in the state that asking leaves. -/
theorem State.draw_setBusy_waits (s : State) (service : Service) : ReadWaits service s (s.draw.2.setBusy (some service)) where
  regs r := by simp
  cond := by simp
  pc := by simp
  memory a := by simp
  output := by simp
  halted := by simp
  busy := rfl
  input := ⟨rfl, rfl⟩

theorem State.getcRead_waits (h : s.charIn.1 = none) : ReadWaits .getc s s.getcRead := by
  rw [State.getcRead_of_none h]
  exact s.draw_setBusy_waits .getc

theorem State.inRead_waits (h : s.charIn.1 = none) : ReadWaits .inp s s.inRead := by
  rw [State.inRead_of_none h]
  exact s.draw_setBusy_waits .inp

/-! ## GETC and IN -/

/-- The registers of a service that has read: R7 is the PC, R0 the byte, and the others are as before. -/
theorem RegsKeptBut.of_enterTrap (hu : RegsKept s.enterTrap u) (h : RegsKeptBut .r0 u t) :
    t.reg .r7 = s.pc ∧ ∀ r, r ≠ .r0 → r ≠ .r7 → t.reg r = s.reg r :=
  ⟨(h .r7 (by decide)).trans (hu .r7), fun r h0 h7 => (h r h0).trans ((hu r).trans (s.enterTrap_reg_of_ne h7))⟩

/-- The registers of a service that waits, or reads nothing: R7 is the PC, and the others are as before. -/
theorem RegsKept.of_enterTrap (h : RegsKept s.enterTrap t) : t.reg .r7 = s.pc ∧ RegsKeptBut .r7 s t :=
  ⟨h .r7, fun r hr => (h r).trans (s.enterTrap_reg_of_ne hr)⟩

/-- Settles O25: the read of GETC ends or waits, after R7 is saved. -/
theorem getcReadsOneByteOrWaits : Obligations.GetcReadsOneByteOrWaits := by
  refine fun s s' => ⟨fun c h => ?_, fun h => ?_⟩
  all_goals obtain ⟨hchar, hinput⟩ := (State.enterTrap_inputKept (s := s)).charIn h
  · have hread : ReadEnds c [] s.enterTrap s.enterTrap.getcRead := State.getcRead_ends hchar
    obtain ⟨hr7, hregs⟩ := hread.regs.of_enterTrap fun _ => rfl
    exact ⟨_, exec_getc s, hread.value, hr7, hregs, hread.cond, hread.pc, hread.memory,
      hread.output.trans (List.append_nil _), hread.halted, hread.busy, hinput.trans hread.input⟩
  · have hread : ReadWaits .getc s.enterTrap s.enterTrap.getcRead := State.getcRead_waits hchar
    obtain ⟨hr7, hregs⟩ := hread.regs.of_enterTrap
    exact ⟨_, exec_getc s, hr7, hregs, hread.cond, hread.pc, hread.memory, hread.output, hread.halted, hread.busy,
      hinput.trans hread.input⟩

/-- Settles O26: the read of IN ends or waits, after R7 is saved and the prompt written. -/
theorem inPromptsReadsAndEchoesOrWaits : Obligations.InPromptsReadsAndEchoesOrWaits := by
  refine fun s s' => ⟨fun c h => ?_, fun h => ?_⟩
  all_goals
    have hprompt : InputKept s (s.enterTrap.charsOut Config.IN_PROMPT) := State.enterTrap_inputKept
    obtain ⟨hchar, hinput⟩ := hprompt.charIn h
  · have hread := State.inRead_ends hchar
    obtain ⟨hr7, hregs⟩ := hread.regs.of_enterTrap (s := s) fun _ => rfl
    exact ⟨_, exec_inp s, hread.value, hr7, hregs, hread.cond, hread.pc, hread.memory, hread.output, hread.halted,
      hread.busy, hinput.trans hread.input⟩
  · have hread := State.inRead_waits hchar
    obtain ⟨hr7, hregs⟩ := RegsKept.of_enterTrap (s := s) hread.regs
    exact ⟨_, exec_inp s, hr7, hregs, hread.cond, hread.pc, hread.memory, hread.output, hread.halted, hread.busy,
      hinput.trans hread.input⟩

/-! ## Resumed reads -/

/-- A block with a service in progress goes on with it (R141). -/
theorem step_of_busy {service : Service} (hh : s.halted = false) (hb : s.busy = some service) :
    step s = .next (resume service s) := by
  simp [step, hh, hb]

/-- Settles O36: a resumed read is the same read, from the state itself. -/
theorem waitingReadsGoOn : Obligations.WaitingReadsGoOn := by
  refine fun s s' hh => ⟨fun c h hb => ?_, fun h hb => ?_⟩
  all_goals obtain ⟨hchar, hinput⟩ := (InputKept.refl s).charIn h
  · rcases hb with hb | hb
    · have hread := State.getcRead_ends hchar
      exact ⟨_, step_of_busy hh hb, hread.value, hread.regs, hread.cond, hread.pc, hread.memory,
        fun _ => hread.output.trans (List.append_nil _), fun hi => by simp [hb] at hi, hread.halted.trans hh, hread.busy,
        hinput.trans hread.input⟩
    · have hread := State.inRead_ends hchar
      exact ⟨_, step_of_busy hh hb, hread.value, hread.regs, hread.cond, hread.pc, hread.memory,
        fun hg => by simp [hb] at hg, fun _ => hread.output, hread.halted.trans hh, hread.busy, hinput.trans hread.input⟩
  · obtain ⟨service, hb', hread⟩ : ∃ service, s.busy = some service ∧ ReadWaits service s (resume service s) :=
      hb.elim (fun hb => ⟨_, hb, State.getcRead_waits hchar⟩) fun hb => ⟨_, hb, State.inRead_waits hchar⟩
    exact ⟨_, step_of_busy hh hb', hread.regs, hread.cond, hread.pc, hread.memory, hread.output, hread.halted.trans hh,
      hread.busy.trans hb'.symm, hinput.trans hread.input⟩

/-- Noting the service that is in progress already changes nothing. -/
theorem State.setBusy_self {b : Option Service} (h : s.busy = b) : s.setBusy b = s := by
  subst h
  rfl

/-- Settles O37: an ended stream gives no byte and stays as it is, so the read waits in the same state. -/
theorem endedInputLeavesReadsWaiting : Obligations.EndedInputLeavesReadsWaiting := by
  intro s rest hh hinput hb
  obtain ⟨-, -, hended, -⟩ := pollsAndBlockingReadsShareOneStream s rest
  obtain ⟨-, hchar⟩ := hended hinput
  have hdraw : s.draw.2 = s := by rw [← s.charIn_snd, hchar]
  have hnone : s.charIn.1 = none := congrArg Prod.fst hchar
  rcases hb with hb | hb
  · rw [step_of_busy hh hb, resume, State.getcRead_of_none hnone, hdraw, State.setBusy_self hb]
  · rw [step_of_busy hh hb, resume, State.inRead_of_none hnone, hdraw, State.setBusy_self hb]

/-! ## OUT, HALT and TRAP with another selector -/

theorem lowByte_eq (w : Word) : lowByte w = BitVec.ofNat 8 (w.toNat % 256) := by
  apply BitVec.eq_of_toNat_eq
  simp [lowByte, BitVec.extractLsb'_toNat]

/-- Settles O27: after R7 is saved R0 is read, and the output is all that changes. -/
theorem outWritesTheLowByteOfR0 : Obligations.OutWritesTheLowByteOfR0 := by
  intro s
  obtain ⟨hr7, hregs⟩ :=
    RegsKept.of_enterTrap (s := s) (t := s.enterTrap.charOut (lowByte (s.enterTrap.reg .r0))) fun _ => rfl
  refine ⟨_, exec_out s, ?_, hr7, hregs, rfl, rfl, fun _ => rfl, ⟨rfl, rfl⟩, rfl, rfl⟩
  rw [State.charOut_output, lowByte_eq, s.enterTrap_reg_of_ne (by decide), State.enterTrap_output]

/-- Settles O32: after R7 is saved the banner and the latch are all that changes. -/
theorem haltWritesTheBannerAndStops : Obligations.HaltWritesTheBannerAndStops := by
  intro s
  obtain ⟨hr7, hregs⟩ :=
    RegsKept.of_enterTrap (s := s) (t := (s.enterTrap.charsOut Config.HALT_BANNER).setHalted) fun _ => rfl
  exact ⟨_, exec_halt s, rfl, rfl, hr7, hregs, rfl, rfl, fun _ => rfl, ⟨rfl, rfl⟩, rfl⟩

/-- Settles O33: TRAP's own effect is R7 alone. -/
theorem unlistedTrapsAndReservedOpcodes : Obligations.UnlistedTrapsAndReservedOpcodes := by
  refine fun s => ⟨fun v => ?_, exec_res8 s, exec_res13 s⟩
  obtain ⟨hr7, hregs⟩ := RegsKept.of_enterTrap (s := s) fun _ => rfl
  exact ⟨_, exec_trap s v, hr7, hregs, rfl, rfl, ⟨fun _ => rfl, ⟨rfl, rfl⟩, rfl, rfl, rfl⟩⟩

end Sys2Proof.Machine
end

section
/-! SUPPORT. PUTS and PUTSP (45_trap.md rules R238, R244): their loop against the two relations of the rules, started and resumed,
and the loop on a string in plain memory. -/

namespace Sys2Proof.Machine

variable {s t u : State} {a : Word} {bytes : Word → List Byte} {inProgress : Word → Service}

/-! ## The bytes of a word -/

theorem highByte_eq (w : Word) : highByte w = BitVec.ofNat 8 (w.toNat / 256) := by
  apply BitVec.eq_of_toNat_eq
  simp [highByte, BitVec.extractLsb'_toNat, Nat.shiftRight_eq_div_pow]

theorem putsBytes_eq : putsBytes = oneCharacter := by
  funext w
  rw [putsBytes, oneCharacter, lowByte_eq]

theorem putspBytes_eq : putspBytes = upToTwoCharacters := by
  funext w
  have hzero : BitVec.ofNat 8 (w.toNat / 256) = 0 ↔ w.toNat / 256 = 0 := by
    rw [← BitVec.toNat_inj, BitVec.toNat_ofNat, Nat.mod_eq_of_lt (by omega)]
    rfl
  simp only [putspBytes, upToTwoCharacters, lowByte_eq, highByte_eq, hzero]

theorem State.putsFrom_eq (s : State) (a : Word) :
    s.putsFrom a = stringLoop oneCharacter .puts Config.STRING_BURST a s := by rw [State.putsFrom, putsBytes_eq]

theorem State.putspFrom_eq (s : State) (a : Word) :
    s.putspFrom a = stringLoop upToTwoCharacters .putsp Config.STRING_BURST a s := by rw [State.putspFrom, putspBytes_eq]

theorem exec_puts_eq (s : State) :
    exec .puts s = .next (stringLoop oneCharacter .puts Config.STRING_BURST (s.reg .r0) s.enterTrap) := by
  rw [exec_puts, State.putsFrom_eq, s.enterTrap_reg_of_ne (by decide)]

theorem exec_putsp_eq (s : State) :
    exec .putsp s = .next (stringLoop upToTwoCharacters .putsp Config.STRING_BURST (s.reg .r0) s.enterTrap) := by
  rw [exec_putsp, State.putspFrom_eq, s.enterTrap_reg_of_ne (by decide)]

/-! ## The loop that ends, and the loop that does not -/

/-- Settles O30: where the loop of the rules ends within the bound, the model's ends in the same state. -/
theorem stringServicesEndAsTheirLoopDoes : Obligations.StringServicesEndAsTheirLoopDoes :=
  fun s _ _ hn => ⟨fun h => by rw [exec_puts_eq, h.stringLoop_eq hn], fun h => by rw [exec_putsp_eq, h.stringLoop_eq hn]⟩

/-- A loop of the rules that does not end within `n` words has a state after `n` words, and the model's loop is left there. -/
theorem stringLoop_of_endless {n : Nat} (h : ∀ m ≤ n, ∀ u, ¬ StringRun bytes m a s u) :
    ∃ u, StringPart bytes n a s u ∧
      stringLoop bytes inProgress n a s = { u with busy := some (inProgress (a + BitVec.ofNat 16 n)) } := by
  rcases stringRun_or_stringPart bytes n a s with ⟨m, hm, u, hrun⟩ | ⟨u, hpart⟩
  · exact absurd hrun (h m hm u)
  · exact ⟨u, hpart, hpart.stringLoop_eq⟩

/-- A step that runs the model's loop ends it as the loop of the rules ends, or is left where `n` words of that loop lead. -/
theorem step_of_stringLoop {n : Nat} (hstep : step s = .next (stringLoop bytes inProgress n a s)) :
    (∀ m ≤ n, ∀ u, StringRun bytes m a s u → step s = .next { u with busy := none }) ∧
      ((∀ m ≤ n, ∀ u, ¬ StringRun bytes m a s u) →
        ∃ u, StringPart bytes n a s u ∧
          step s = .next { u with busy := some (inProgress (a + BitVec.ofNat 16 n)) }) := by
  rw [hstep]
  refine ⟨fun m hm u h => by rw [h.stringLoop_eq hm], fun h => ?_⟩
  obtain ⟨u, hpart, hloop⟩ := stringLoop_of_endless (inProgress := inProgress) h
  exact ⟨u, hpart, by rw [hloop]⟩

/-- Settles O53: a resumed service is the same loop, from the word in progress. -/
theorem stringServicesGoOnWhereTheyLeftOff : Obligations.StringServicesGoOnWhereTheyLeftOff := by
  refine fun s a hh => ⟨fun hb => step_of_stringLoop ?_, fun hb => step_of_stringLoop ?_⟩
  · rw [step_of_busy hh hb, resume, State.putsFrom_eq]
  · rw [step_of_busy hh hb, resume, State.putspFrom_eq]

/-! ## What an endless string writes and leaves alone -/

/-- Part of the loop writes the bytes of as many words as it reads, in order (R239, R244). -/
theorem StringPart.output_eq {n : Nat} (h : StringPart bytes n a s u) :
    ∃ ws : List Word, ws.length = n ∧ u.output = s.output ++ ws.flatMap bytes := by
  induction h with
  | nothing a s => exact ⟨[], rfl, (List.append_nil _).symm⟩
  | word n a w s s' t hr hw _ ih =>
    obtain ⟨ws, hlen, hout⟩ := ih
    have hs' : s'.output = s.output := by rw [← s.memRead_output a, hr]
    refine ⟨w :: ws, congrArg Nat.succ hlen, ?_⟩
    rw [hout, State.charsOut_output, hs', List.append_assoc, List.flatMap_cons]

theorem length_flatMap_oneCharacter (ws : List Word) : (ws.flatMap oneCharacter).length = ws.length := by
  simp [oneCharacter]

theorem length_le_flatMap_upToTwoCharacters (ws : List Word) : ws.length ≤ (ws.flatMap upToTwoCharacters).length := by
  induction ws with
  | nil => exact le_rfl
  | cons w ws ih =>
    have hw : 1 ≤ (upToTwoCharacters w).length := by
      unfold upToTwoCharacters
      split <;> simp
    rw [List.flatMap_cons, List.length_append, List.length_cons]
    omega

/-- The loop leaves every word alone but the two device words (R57). -/
theorem stringLoop_word (bytes : Word → List Byte) (inProgress : Word → Service) (n : Nat) (a : Word) (s : State) {b : Word}
    (hkbsr : b ≠ Config.KBSR_ADDR) (hkbdr : b ≠ Config.KBDR_ADDR) :
    (stringLoop bytes inProgress n a s).word b = s.word b :=
  stringLoop_keeps bytes inProgress (P := fun t => t.word b = s.word b)
    (fun t c h => (t.memRead_word c hkbsr hkbdr).trans h) (fun _ _ h => h) (fun _ _ h => h) n a s rfl

/-- All that a string service's loop leaves alone, started by a TRAP in `s`. -/
theorem stringLoop_enterTrap (bytes : Word → List Byte) (inProgress : Word → Service) (n : Nat) (a : Word) (s : State)
    (ht : t = stringLoop bytes inProgress n a s.enterTrap) :
    t.reg .r7 = s.pc ∧ RegsKeptBut .r7 s t ∧ t.cond = s.cond ∧ t.pc = s.pc ∧ t.halted = s.halted ∧
      ∀ b, b ≠ Config.KBSR_ADDR → b ≠ Config.KBDR_ADDR → t.word b = s.word b := by
  subst ht
  obtain ⟨hregs, hpc, hcond, hhalted⟩ := stringLoop_frame bytes inProgress n a s.enterTrap
  obtain ⟨hr7, hkept⟩ := RegsKept.of_enterTrap fun r => congrArg (Regs.get · r) hregs
  exact ⟨hr7, hkept, hcond, hpc, hhalted, fun _ => stringLoop_word bytes inProgress n a s.enterTrap⟩

/-- Settles O31: the loop is left where its 65536 words lead, which is one byte or more a word; the loop's frame is the rest. -/
theorem endlessStringsAreNoFault : Obligations.EndlessStringsAreNoFault := by
  refine fun s => ⟨fun h => ?_, fun h => ?_⟩
  · obtain ⟨u, hpart, hloop⟩ := stringLoop_of_endless (inProgress := .puts) h
    obtain ⟨hr7, hregs, hcond, hpc, hhalted, hword⟩ := stringLoop_enterTrap oneCharacter .puts _ _ s hloop.symm
    obtain ⟨ws, hlen, hout⟩ := hpart.output_eq
    refine ⟨u, _, hpart, by rw [exec_puts_eq, hloop], rfl, hr7, hregs, hcond, hpc, hhalted, ?_, hword⟩
    show s.output.length + _ = u.output.length
    rw [hout, List.length_append, length_flatMap_oneCharacter, hlen]
    rfl
  · obtain ⟨u, hpart, hloop⟩ := stringLoop_of_endless (inProgress := .putsp) h
    obtain ⟨hr7, hregs, hcond, hpc, hhalted, hword⟩ := stringLoop_enterTrap upToTwoCharacters .putsp _ _ s hloop.symm
    obtain ⟨ws, hlen, hout⟩ := hpart.output_eq
    refine ⟨u, _, hpart, by rw [exec_putsp_eq, hloop], rfl, hr7, hregs, hcond, hpc, hhalted, ?_, hword⟩
    show s.output.length + _ ≤ u.output.length
    rw [hout, List.length_append, ← hlen]
    exact Nat.add_le_add_left (length_le_flatMap_upToTwoCharacters ws) _

/-! ## A string in plain memory -/

/-- The word a plain string begins with is read with no poll. -/
theorem PlainString.memRead_head {w : Word} {ws : List Word} (h : PlainString s a (w :: ws)) :
    s.memRead a = (w, s) ∧ w ≠ 0 := by
  have hplain : a ≠ Config.KBSR_ADDR := by simpa using h.noPoll 0 (Nat.zero_le _)
  have hword : s.word a = w ∧ w ≠ 0 := by simpa using h.letters 0 (Nat.zero_lt_succ _)
  obtain ⟨hread, hne⟩ := hword
  rw [s.memRead_of_ne hplain, hread]
  exact ⟨rfl, hne⟩

/-- After its first word a plain string is a plain string, in every state with the same memory. -/
theorem PlainString.tail {w : Word} {ws : List Word} (h : PlainString s a (w :: ws)) (hmem : t.mem = s.mem) :
    PlainString t (a + 1) ws := by
  have haddr : ∀ k, a + 1 + BitVec.ofNat 16 k = a + BitVec.ofNat 16 (k + 1) := by
    intro k
    rw [Nat.add_comm k 1, BitVec.ofNat_add, BitVec.add_assoc]
    rfl
  have hword : ∀ b, t.word b = s.word b := fun b => by rw [State.word, hmem, State.word]
  refine ⟨fun k hk => ?_, ?_, fun k hk => ?_⟩
  · rw [haddr, hword]
    exact h.letters (k + 1) (Nat.succ_lt_succ hk)
  · rw [haddr, hword]
    exact h.terminator
  · rw [haddr]
    exact h.noPoll (k + 1) (Nat.succ_le_succ hk)

/-- The loop on a plain string reads its words and the zero word, writes their bytes, and changes nothing else. -/
theorem PlainString.stringRun {ws : List Word} (bytes : Word → List Byte) (h : PlainString s a ws) :
    StringRun bytes (ws.length + 1) a s (s.charsOut (ws.flatMap bytes)) := by
  induction ws generalizing a s with
  | nil =>
    have hplain : a ≠ Config.KBSR_ADDR := by simpa using h.noPoll 0 le_rfl
    have hzero : s.word a = 0 := by simpa using h.terminator
    have hout : s.charsOut (List.flatMap bytes []) = s := s.charsOut_nil
    rw [hout]
    exact .stop a s s (by rw [s.memRead_of_ne hplain, hzero])
  | cons w ws ih =>
    obtain ⟨hread, hne⟩ := h.memRead_head
    refine .go _ a w s s _ hread hne ?_
    have hout : s.charsOut ((w :: ws).flatMap bytes) = (s.charsOut (bytes w)).charsOut (ws.flatMap bytes) := by
      simp [State.charsOut, List.append_assoc]
    rw [hout]
    exact ih (h.tail (s.charsOut_mem _))

/-- TRAP's own effect leaves the string where it is. -/
theorem PlainString.enterTrap {ws : List Word} (h : PlainString s a ws) : PlainString s.enterTrap a ws :=
  ⟨h.letters, h.terminator, h.noPoll⟩

/-- The state after a string service on a plain string. -/
theorem plainString_ending (s : State) (out : List Byte) :
    let t := { s.enterTrap.charsOut out with busy := none }
    t.output = s.output ++ out ∧ t.reg .r7 = s.pc ∧ RegsKeptBut .r7 s t ∧ t.cond = s.cond ∧ t.pc = s.pc ∧
      MemoryKept s t ∧ InputKept s t ∧ t.halted = s.halted ∧ t.busy = none := by
  intro t
  obtain ⟨hr7, hregs⟩ := RegsKept.of_enterTrap (s := s) (t := t) fun _ => rfl
  exact ⟨rfl, hr7, hregs, rfl, rfl, fun _ => rfl, ⟨rfl, rfl⟩, rfl, rfl⟩

/-- Settles O28: the loop of PUTS on the string, one byte a word. -/
theorem putsWritesAPlainString : Obligations.PutsWritesAPlainString := by
  intro s ws h hlen
  obtain ⟨hend, -⟩ := stringServicesEndAsTheirLoopDoes s _ _ (Nat.succ_le_of_lt hlen)
  have hmap : ws.map (fun w => BitVec.ofNat 8 (w.toNat % 256)) = ws.flatMap oneCharacter := List.map_eq_flatMap
  rw [hmap]
  exact ⟨_, hend (h.enterTrap.stringRun oneCharacter), plainString_ending s _⟩

/-- Settles O29: the loop of PUTSP on the string, one byte or two a word. -/
theorem putspWritesAPlainString : Obligations.PutspWritesAPlainString := by
  intro s ws h hlen
  obtain ⟨-, hend⟩ := stringServicesEndAsTheirLoopDoes s _ _ (Nat.succ_le_of_lt hlen)
  exact ⟨_, hend (h.enterTrap.stringRun upToTwoCharacters), plainString_ending s _⟩

end Sys2Proof.Machine
end

section
/-! SUPPORT. The instruction cycle (40_instruction_cycle.md rules R131 to R139): what a step is in each kind of state, and that
only a halted block faults. -/

namespace Sys2Proof.Machine

variable {s : State}

/-- A block that is not halted and has no service in progress fetches and runs an instruction (R131 to R134). -/
theorem step_of_idle (hh : s.halted = false) (hb : s.busy = none) : step s = exec (decode s.fetched) s.afterFetch := by
  simp [step, hh, hb]

/-- The fetch in terms of its read: what is run, and from which state. -/
theorem step_of_memRead {w : Word} {s' : State} (hh : s.halted = false) (hb : s.busy = none)
    (h : s.memRead s.pc = (w, s')) : step s = exec (decode w) (s'.setPc (s.pc + 1)) := by
  rw [step_of_idle hh hb, State.fetched, State.afterFetch, h]

/-- Settles O34: the read's three cases, any word, a stored word, and what a poll leaves. -/
theorem stepRunsTheFetchedInstruction : Obligations.StepRunsTheFetchedInstruction := by
  refine fun s hh hb => ⟨fun w s' h => step_of_memRead hh hb h, fun i _ hpc hi => ?_, fun hpc => ⟨_, rfl, ?_⟩⟩
  · rw [step_of_memRead hh hb (s.memRead_of_ne hpc), hi]
    rfl
  · rw [step_of_idle hh hb, exec_fetched_of_kbsr hpc]
    rfl

theorem fetchSlot_ne (s : State) : fetchSlot s ≠ Config.KBSR_ADDR := by
  unfold fetchSlot
  split
  · decide
  · assumption

/-- The word placed for the next fetch is read there (log entry 10). -/
theorem State.withFetchWord_word (s : State) (w : Word) : (s.withFetchWord 16 w.toNat).word (fetchSlot s) = w := by
  have hw : BitVec.ofNat 16 (w.toNat % 2 ^ 16) = w := by rw [Nat.mod_eq_of_lt w.isLt, BitVec.ofNat_toNat, BitVec.setWidth_eq]
  exact (readWord_writeWord_same s.mem (fetchSlot s) _).trans hw

/-- Settles O35: the word is placed where the next fetch reads, and that is never the status word. -/
theorem placedWordIsRunNext : Obligations.PlacedWordIsRunNext := by
  intro s w
  have hread : (s.withFetchWord 16 w.toNat).memRead (fetchSlot s) = (w, s.withFetchWord 16 w.toNat) := by
    rw [State.memRead_of_ne _ (fetchSlot_ne s), s.withFetchWord_word w]
  exact step_of_memRead rfl rfl hread

/-- Settles O38: the halt latch is looked at first. -/
theorem haltedBlockTakesNoStep : Obligations.HaltedBlockTakesNoStep := fun _ h => if_pos h

/-- Every arm of the dispatch engine answers a next state (R109, R270). -/
theorem exec_answers (i : Instr) (s : State) : ∃ t, exec i s = .next t := by
  cases i <;> exact ⟨_, rfl⟩

/-- A block that is not halted takes a step: it goes on with its service or runs what it fetches. -/
theorem step_answers (hh : s.halted = false) : ∃ t, step s = .next t := by
  cases hb : s.busy with
  | some service => exact ⟨_, step_of_busy hh hb⟩
  | none => rw [step_of_idle hh hb]; exact exec_answers _ _

/-- Settles O39: every instruction answers, so every step of a block that is not halted does. -/
theorem nothingFaultsButAHaltedBlock : Obligations.NothingFaultsButAHaltedBlock := by
  refine ⟨exec_answers, fun _ => step_answers, fun s => ?_⟩
  cases hh : s.halted with
  | true => exact .inl hh
  | false => exact .inr (step_answers hh)

end Sys2Proof.Machine
end

section
/-! SUPPORT. Who writes memory (44_store.md, 45_trap.md section 4): the stores, and the polls of the two device words. -/

namespace Sys2Proof.Machine

variable {s t : State} {b : Word}

section
variable (hkbsr : b ≠ Config.KBSR_ADDR) (hkbdr : b ≠ Config.KBDR_ADDR)
include hkbsr hkbdr

/-- An instruction leaves every word alone but the one it stores to and the device words. -/
theorem exec_word {i : Instr} (h : exec i s = .next t) (hstore : storeAddress i s ≠ some b) : t.word b = s.word b := by
  have hne : ∀ a, storeAddress i s = some a → b ≠ a := fun a ha hb => hstore (hb ▸ ha)
  cases i with
  | st | str => cases h; exact s.setWord_word_of_ne _ (hne _ rfl)
  | sti sr off => cases h; exact (State.setWord_word_of_ne _ _ (hne _ rfl)).trans (s.memRead_word _ hkbsr hkbdr)
  | ld | ldr => cases h; exact s.memRead_word _ hkbsr hkbdr
  | ldi dr off => cases h; exact (State.memRead_word _ _ hkbsr hkbdr).trans (s.memRead_word _ hkbsr hkbdr)
  | puts | putsp => cases h; exact stringLoop_word _ _ _ _ _ hkbsr hkbdr
  | getc => cases h; exact congrArg (readWord · b) s.enterTrap.getcRead_mem
  | inp => cases h; exact congrArg (readWord · b) (s.enterTrap.charsOut _).inRead_mem
  | br mask off => obtain ⟨-, rfl⟩ | ⟨-, rfl⟩ := exec_br_cases h <;> rfl
  | _ => cases h; rfl

/-- A service gone on with leaves every word alone but the device words. -/
theorem resume_word (service : Service) : (resume service s).word b = s.word b := by
  cases service with
  | getc => exact congrArg (readWord · b) s.getcRead_mem
  | inp => exact congrArg (readWord · b) s.inRead_mem
  | puts a | putsp a => exact stringLoop_word _ _ _ _ _ hkbsr hkbdr

end

/-- Settles O43: the fetch and a resumed service change no word but the device words, and an instruction only the one it stores
to. -/
theorem memoryChangesOnlyByStoresAndPolls : Obligations.MemoryChangesOnlyByStoresAndPolls := by
  intro s t h b hkbsr hkbdr hstore
  obtain ⟨-, ⟨service, -, rfl⟩ | ⟨hb, he⟩⟩ := step_cases h
  · exact resume_word hkbsr hkbdr service
  · rw [State.current_of_idle hb] at hstore
    exact (exec_word hkbsr hkbdr he (hstore hb)).trans (s.memRead_word s.pc hkbsr hkbdr)

end Sys2Proof.Machine
end

section
/-! SUPPORT. The end of a run (40_instruction_cycle.md rule R140) and the output stream (00_scope.md rule R12). -/

namespace Sys2Proof.Machine

variable {s t : State}

/-! ## HALT -/

/-- A fetch at the status word gives no HALT: neither word a poll leaves there is one. -/
theorem pc_ne_kbsr_of_fetched_halt (h : decode s.fetched = .halt) : s.pc ≠ Config.KBSR_ADDR := by
  intro hpc
  rw [State.fetched, hpc] at h
  rcases s.memRead_kbsr_value with hw | hw <;> rw [hw] at h <;> revert h <;> decide

/-- A step halts the block exactly when it runs a HALT that it fetched. -/
theorem step_halted_iff (h : step s = .next t) : t.halted = true ↔ s.busy = none ∧ decode s.fetched = .halt := by
  obtain ⟨hh, ⟨service, hb, rfl⟩ | ⟨hb, he⟩⟩ := step_cases h
  · simp [resume_halted, hh, hb]
  · by_cases hi : decode s.fetched = .halt
    · rw [hi] at he
      cases he
      simp [hb, hi]
    · rw [exec_halted he hi]
      simp [hh, hi]

/-- The state a HALT leaves (R140, R247). -/
theorem step_of_halt (h : step s = .next t) (hb : s.busy = none) (hi : decode s.fetched = .halt) :
    t = ((s.setPc (s.pc + 1)).enterTrap.charsOut Config.HALT_BANNER).setHalted := by
  obtain ⟨-, ⟨service, hb', -⟩ | ⟨-, he⟩⟩ := step_cases h
  · simp [hb] at hb'
  · rw [hi, State.afterFetch, s.memRead_of_ne (pc_ne_kbsr_of_fetched_halt hi)] at he
    exact (Host.Outcome.next.inj he).symm

/-- Settles O44: HALT alone sets the latch, and its fetch polls nothing, so the final state is HALT's own. -/
theorem runEndsExactlyAtHalt : Obligations.RunEndsExactlyAtHalt := by
  refine fun s t h => ⟨step_halted_iff h, fun ht => ?_⟩
  obtain ⟨hb, hi⟩ := (step_halted_iff h).mp ht
  have hstop : step t = .fault .halted := haltedBlockTakesNoStep t ht
  have hfinal := step_of_halt h hb hi
  obtain ⟨hr7, hregs⟩ := RegsKept.of_enterTrap (s := s.setPc (s.pc + 1)) (t := t) fun _ => by rw [hfinal]; rfl
  subst hfinal
  exact ⟨hr7, rfl, hregs, rfl, fun _ => rfl, rfl, hstop⟩

/-! ## The output stream -/

/-- From `s` to `t` bytes are appended to the output, and none if `i` is no service that writes (R12, R253). -/
def OutputGrows (i : Instr) (s t : State) : Prop :=
  ∃ bytes, t.output = s.output ++ bytes ∧
    (bytes ≠ [] → i = .out ∨ i = .puts ∨ i = .inp ∨ i = .putsp ∨ i = .halt)

theorem OutputGrows.of_kept {i : Instr} (h : t.output = s.output) : OutputGrows i s t :=
  ⟨[], by rw [h, List.append_nil], fun hne => absurd rfl hne⟩

/-- The loop of a string service only appends. -/
theorem stringLoop_output (bytes : Word → List Byte) (inProgress : Word → Service) (n : Nat) (a : Word) (s : State) :
    ∃ out, (stringLoop bytes inProgress n a s).output = s.output ++ out :=
  stringLoop_keeps bytes inProgress (P := fun t => ∃ out, t.output = s.output ++ out)
    (fun t b h => by simpa using h)
    (fun t bs ⟨out, hout⟩ => ⟨out ++ bs, by rw [State.charsOut_output, hout, List.append_assoc]⟩)
    (fun t b h => by simpa using h) n a s ⟨[], (List.append_nil _).symm⟩

theorem State.getcRead_output (s : State) : s.getcRead.output = s.output := by
  cases hc : s.charIn.1 with
  | none => exact (State.getcRead_waits hc).output
  | some c => exact (State.getcRead_ends hc).output.trans (List.append_nil _)

theorem State.inRead_output (s : State) : ∃ echo, s.inRead.output = s.output ++ echo := by
  cases hc : s.charIn.1 with
  | none => exact ⟨[], (State.inRead_waits hc).output.trans (List.append_nil _).symm⟩
  | some c => exact ⟨[c], (State.inRead_ends hc).output⟩

theorem exec_output {i : Instr} (h : exec i s = .next t) : OutputGrows i s t := by
  cases i with
  | out => cases h; exact ⟨_, rfl, fun _ => by simp⟩
  | halt => cases h; exact ⟨_, rfl, fun _ => by simp⟩
  | puts | putsp =>
    cases h
    obtain ⟨out, hout⟩ := stringLoop_output _ _ _ _ _
    exact ⟨out, hout, fun _ => by simp⟩
  | inp =>
    cases h
    obtain ⟨echo, hecho⟩ := (s.enterTrap.charsOut Config.IN_PROMPT).inRead_output
    exact ⟨Config.IN_PROMPT ++ echo, hecho.trans (List.append_assoc _ _ _), fun _ => by simp⟩
  | getc => cases h; exact .of_kept s.enterTrap.getcRead_output
  | ld | ldr => cases h; exact .of_kept (s.memRead_output _)
  | ldi dr off => cases h; exact .of_kept ((State.memRead_output _ _).trans (s.memRead_output _))
  | br mask off => obtain ⟨-, rfl⟩ | ⟨-, rfl⟩ := exec_br_cases h <;> exact .of_kept rfl
  | _ => cases h; exact .of_kept (by simp)

theorem resume_output (service : Service) (s : State) : OutputGrows service.instr s (resume service s) := by
  cases service with
  | getc => exact .of_kept s.getcRead_output
  | inp =>
    obtain ⟨echo, hecho⟩ := s.inRead_output
    exact ⟨echo, hecho, fun _ => by simp [Service.instr]⟩
  | puts a | putsp a =>
    obtain ⟨out, hout⟩ := stringLoop_output _ _ _ a s
    exact ⟨out, hout, fun _ => by simp [Service.instr]⟩

/-- Settles O45: an instruction and a resumed service append or keep, and the fetch writes nothing. -/
theorem outputOnlyGrowsAndOnlyByServices : Obligations.OutputOnlyGrowsAndOnlyByServices := by
  intro s t h
  obtain ⟨-, ⟨service, hb, rfl⟩ | ⟨hb, he⟩⟩ := step_cases h
  · rw [State.current_of_busy hb]
    exact resume_output service s
  · rw [State.current_of_idle hb]
    have hout : OutputGrows _ s.afterFetch t := exec_output he
    rwa [OutputGrows, s.afterFetch_output] at hout

end Sys2Proof.Machine
end

section
/-! SUPPORT. Who reads COND (10_state.md rule R33): every operation but BR does the same whatever COND holds, so it commutes with
`setCond`, or overwrites COND by a flag that does not depend on it. -/

namespace Sys2Proof.Machine

variable {s t : State}

/-! ## The shared operations commute with `setCond` -/

section
variable (s : State) (c : Word)

theorem State.draw_setCond : (s.setCond c).draw = (s.draw.1, s.draw.2.setCond c) := by
  unfold State.draw
  rw [State.setCond_input]
  split <;> rfl

theorem State.charIn_fst_setCond : (s.setCond c).charIn.1 = s.charIn.1 := InputKept.charIn_fst (s := s) ⟨rfl, rfl⟩

theorem State.kbdPoll_setCond : (s.setCond c).kbdPoll = (s.kbdPoll.1, s.kbdPoll.2.setCond c) := by
  refine Prod.ext ?_ ?_
  · rw [State.kbdPoll_eq_charIn, State.kbdPoll_eq_charIn]
    exact s.charIn_fst_setCond c
  · rw [State.kbdPoll_snd, State.draw_setCond, State.kbdPoll_snd]

theorem latchPoll_setCond (b : Option Byte) : latchPoll (b, s.setCond c) = (latchPoll (b, s)).setCond c := by
  cases b <;> rfl

theorem State.memRead_setCond (a : Word) : (s.setCond c).memRead a = ((s.memRead a).1, (s.memRead a).2.setCond c) := by
  by_cases h : a = Config.KBSR_ADDR
  · subst h
    rw [State.memRead_kbsr, State.memRead_kbsr, State.kbdPoll_setCond, latchPoll_setCond]
    rfl
  · rw [State.memRead_of_ne _ h, State.memRead_of_ne _ h]
    rfl

theorem State.fetched_setCond : (s.setCond c).fetched = s.fetched := by
  rw [State.fetched, State.setCond_pc, State.memRead_setCond, State.fetched]

theorem State.afterFetch_setCond : (s.setCond c).afterFetch = s.afterFetch.setCond c := by
  rw [State.afterFetch, State.setCond_pc, State.memRead_setCond, State.afterFetch]
  rfl

/-- A load overwrites COND. -/
theorem State.loadFrom_setCond (dr : Reg) (ea : Word) : (s.setCond c).loadFrom dr ea = s.loadFrom dr ea := by
  rw [State.loadFrom, State.memRead_setCond, State.loadFrom]
  rfl

theorem stringLoop_setCond (bytes : Word → List Byte) (inProgress : Word → Service) (n : Nat) (a : Word) :
    stringLoop bytes inProgress n a (s.setCond c) = (stringLoop bytes inProgress n a s).setCond c := by
  induction n generalizing a s with
  | zero => rfl
  | succ n ih =>
    have hread := s.memRead_setCond c a
    by_cases hz : (s.memRead a).1 = 0
    · rw [stringLoop_stop _ _ hz, stringLoop_stop _ _ (by rw [hread]; exact hz), hread]
      rfl
    · rw [stringLoop_go _ _ hz, stringLoop_go _ _ (by rw [hread]; exact hz), hread]
      exact ih ((s.memRead a).2.charsOut _) (a + 1)

end

/-! ## Two runs that differ in COND only -/

/-- `t` and `t'` are what one operation makes of `s` and of `s` with COND = `c`: it has overwritten COND by the same flag, or left
it alone, and all else is equal. -/
def EqualButCond (c : Word) (s t t' : State) : Prop := t' = t ∨ (t.cond = s.cond ∧ t' = t.setCond c)

variable (c : Word)

theorem State.getcRead_setCond (s : State) : EqualButCond c s s.getcRead (s.setCond c).getcRead := by
  cases hc : s.charIn.1 with
  | some b =>
    left
    rw [State.getcRead_of_byte hc, State.getcRead_of_byte ((s.charIn_fst_setCond c).trans hc), State.draw_setCond]
    rfl
  | none =>
    right
    rw [State.getcRead_of_none hc, State.getcRead_of_none ((s.charIn_fst_setCond c).trans hc), State.draw_setCond]
    exact ⟨s.draw_cond, rfl⟩

theorem State.inRead_setCond (s : State) : EqualButCond c s s.inRead (s.setCond c).inRead := by
  cases hc : s.charIn.1 with
  | some b =>
    left
    rw [State.inRead_of_byte hc, State.inRead_of_byte ((s.charIn_fst_setCond c).trans hc), State.draw_setCond]
    rfl
  | none =>
    right
    rw [State.inRead_of_none hc, State.inRead_of_none ((s.charIn_fst_setCond c).trans hc), State.draw_setCond]
    exact ⟨s.draw_cond, rfl⟩

theorem stringLoop_equalButCond (bytes : Word → List Byte) (inProgress : Word → Service) (n : Nat) (a : Word) (s : State) :
    EqualButCond c s (stringLoop bytes inProgress n a s) (stringLoop bytes inProgress n a (s.setCond c)) := by
  obtain ⟨-, -, hcond, -⟩ := stringLoop_frame bytes inProgress n a s
  exact .inr ⟨hcond, stringLoop_setCond s c bytes inProgress n a⟩

/-- Every instruction but BR does the same whatever COND holds. -/
theorem exec_equalButCond {i : Instr} (hbr : ∀ mask off, i ≠ .br mask off) (s : State) :
    ∃ t t', exec i s = .next t ∧ exec i (s.setCond c) = .next t' ∧ EqualButCond c s t t' := by
  cases i with
  | br mask off => exact absurd rfl (hbr mask off)
  | addReg | addImm | andReg | andImm | not | lea => exact ⟨_, _, rfl, rfl, .inl rfl⟩
  | ld | ldr => exact ⟨_, _, rfl, rfl, .inl (s.loadFrom_setCond c _ _)⟩
  | ldi dr off =>
    refine ⟨_, _, exec_ldi s dr off, exec_ldi _ dr off, .inl ?_⟩
    rw [State.memRead_setCond, State.loadFrom_setCond]
    rfl
  | sti sr off =>
    refine ⟨_, _, exec_sti s sr off, exec_sti _ sr off, .inr ⟨s.memRead_cond _, ?_⟩⟩
    rw [State.memRead_setCond]
    rfl
  | getc => exact ⟨_, _, rfl, rfl, s.enterTrap.getcRead_setCond c⟩
  | inp => exact ⟨_, _, rfl, rfl, (s.enterTrap.charsOut _).inRead_setCond c⟩
  | puts | putsp => exact ⟨_, _, rfl, rfl, stringLoop_equalButCond c _ _ _ _ s.enterTrap⟩
  | _ => exact ⟨_, _, rfl, rfl, .inr ⟨rfl, rfl⟩⟩

/-- A service gone on with does the same whatever COND holds. -/
theorem resume_equalButCond (service : Service) (s : State) :
    EqualButCond c s (resume service s) (resume service (s.setCond c)) := by
  cases service with
  | getc => exact s.getcRead_setCond c
  | inp => exact s.inRead_setCond c
  | puts a | putsp a => exact stringLoop_equalButCond c _ _ _ a s

/-- A step that is no BR does the same whatever COND holds. -/
theorem step_equalButCond (hbr : ∀ mask off, s.current ≠ .br mask off) (hh : s.halted = false) :
    ∃ t t', step s = .next t ∧ step (s.setCond c) = .next t' ∧ EqualButCond c s t t' := by
  cases hb : s.busy with
  | some service => exact ⟨_, _, step_of_busy hh hb, step_of_busy hh hb, resume_equalButCond c service s⟩
  | none =>
    rw [State.current_of_idle hb] at hbr
    rw [step_of_idle hh hb, step_of_idle (s := s.setCond c) hh hb, State.fetched_setCond, State.afterFetch_setCond]
    obtain ⟨t, t', ht, ht', heq⟩ := exec_equalButCond c hbr s.afterFetch
    rw [EqualButCond, s.afterFetch_cond] at heq
    exact ⟨t, t', ht, ht', heq⟩

/-- Settles O46: the two steps end equal, or each with COND as it was. -/
theorem onlyBranchesReadCond : Obligations.OnlyBranchesReadCond := by
  intro s c hbr hh
  obtain ⟨t, t', ht, ht', rfl | ⟨hcond, rfl⟩⟩ := step_equalButCond c hbr hh
  · exact ⟨t', t', ht, ht', rfl, .inl rfl⟩
  · exact ⟨t, t.setCond c, ht, ht', rfl, .inr ⟨hcond, rfl⟩⟩

end Sys2Proof.Machine
end

section
/-! SUPPORT. LOAD (70_reset_and_hazards.md rule R308) writes memory and nothing else. -/

namespace Sys2Proof.Machine

theorem State.load_frame (s : State) (image : List Byte) : s.load image = { s with mem := (s.load image).mem } := by
  unfold State.load
  split <;> rfl

/-- Settles O51: the words by the lemma for one LOAD, and every other field by its frame. -/
theorem loadPlacesTheImage : Obligations.LoadPlacesTheImage := by
  refine fun s image => ⟨s.load_word image, ?_⟩
  rw [s.load_frame image]
  exact ⟨fun _ => rfl, rfl, rfl, rfl, rfl, rfl, rfl, rfl⟩

end Sys2Proof.Machine
end
